-- ==== Sys2Proof/Word.lean ====
section
/-! DEFINITION. The word types of OOFD (spec/10_state.md R10): packets are bytes, PCM spaces hold 16-bit elements. -/

namespace Sys2Proof

/-- An element of a packet space (20_memory.md R40). -/
abbrev Byte := BitVec 8

/-- A PCM element, an `i16` carried as its 16 bits (10_state.md R10, 20_memory.md R41). -/
abbrev Sample := BitVec 16

end Sys2Proof
end

