-- ==== Sys2Proof/Config.lean ====
section
/-! DEFINITION. What an implementation fixes (00_scope.md R6), the open parameters (R7) and the free values of the model. -/

namespace Sys2Proof

/-- The element-indexed spaces of 20_memory.md R40. -/
inductive Space where
  | pcmIn | pcmOut | pktIn | pktBuf | frameBuf | scratch
deriving DecidableEq, Repr

/-- `UNIT_MODE` of 00_scope.md R7: the unit of the encoder's lookahead shift (43_encode.md R162). -/
inductive UnitMode where
  | literal | perChannel
deriving DecidableEq, Repr

namespace Config

/-- `RATES`, the supported sample rates in Hz (00_scope.md R6). -/
def rates : List Nat := [8000, 12000, 16000, 24000, 48000]

/-- `REF_RATE`, the rate of on-wire granule positions (00_scope.md R6). -/
def refRate : Nat := 48000

/-- `MAX_PACKET` in bytes (00_scope.md R6), the capacity of ENC.PKTBUF (10_state.md R18). -/
def maxPacket : Nat := 4000

/-- `MAX_FRAME_SAMPLES` per channel (00_scope.md R6). -/
def maxFrameSamples : Nat := 5760

/-- `MAX_CH` (00_scope.md R6). -/
def maxCh : Nat := 2

/-- `FRAME_MS` (00_scope.md R6). -/
def frameMs : Nat := 20

/-- `BITRATE` in bit/s (00_scope.md R6). -/
def bitrate : Nat := 24000

/-- Capacity of ENC.FRAMEBUF in elements (10_state.md R18). -/
def frameBufCap : Nat := 1920

/-- Capacity of DEC.SCRATCH in elements (10_state.md R18). -/
def scratchCap : Nat := 11520

/-- The longest VENDOR whose comment header fits ENC.PKTBUF (10_state.md R18, decision D19). -/
def maxVendor : Nat := 3984

/-- Free value (log 7): the sample of RAND32 drawn when none has been injected. -/
opaque rand32 : Nat → BitVec 32

/-- Free value (log 10): what ENC reads of a PCM_IN element that the host has written during the
invocation; draw and index. -/
opaque racedSample : Nat → Nat → Sample

/-- Free value (log 9): what a 64-bit register holds when the exact result does not fit it. -/
opaque u64Overflow : Nat → BitVec 64

/-- Free value (log 9): what DEC.PKT.LEN holds when the packet's length does not fit 32 bits. -/
opaque u32Overflow : Nat → BitVec 32

/-- Free value (log 8): what an element of a PCM space reads as when nothing has written it. -/
opaque unwrittenSample : Space → Nat → Sample

/-- Free value (log 8): what a byte of a packet space reads as when nothing has written it. -/
opaque unwrittenByte : Space → Nat → Byte

end Config

/-- The parameters a model takes as arguments (00_scope.md R7); no rule writes them. -/
structure Params where
  /-- `VENDOR`, the vendor string of the comment header. -/
  vendor : List Byte
  /-- `INSTANCE_ID`, one constant per OOFD. -/
  instanceId : BitVec 32
  /-- `DIAG_EN`, whether the final range is read after each codec frame. -/
  diagEn : Bool
  /-- `UNIT_MODE`. -/
  unitMode : UnitMode
deriving DecidableEq, Repr

end Sys2Proof
end

