-- ==== Sys2Proof/Syntax.lean ====
section
/-! DEFINITION. The operation set of OOFD (00_scope.md R3): one constructor per row of spec/opcode_table.json, and the
encoded forms in which each stands at its place of the machine (30_encoding.md). -/

namespace Sys2Proof

/-- The two pipelines (10_state.md R14). -/
inductive Pipe where
  | enc | dec
deriving DecidableEq, Repr

/-- One constructor per row of the opcode table, in the table's order. -/
inductive Instr where
  /-- `ENCODE rate, ch`, written to ENC.CMD (43_encode.md R160). -/
  | encode (ch : BitVec 8) (rate : BitVec 32)
  /-- `DECODE rate`, written to DEC.CMD (42_decode.md R130). -/
  | decode (rate : BitVec 32)
  /-- `SCALE16 value, from, to` (40_convert.md R91); VALUE is the whole 64-bit port input. -/
  | scale16 (value : BitVec 64) (src dst : BitVec 32)
  /-- `SCALE64 value, from, to` (40_convert.md R90). -/
  | scale64 (value : BitVec 64) (src dst : BitVec 32)
  /-- `VALRATE rate` (40_convert.md R92); FROM and TO are ignored. -/
  | valrate (value : BitVec 64)
  /-- CONV with SEL = 3, any operands (30_encoding.md R65). -/
  | convReserved
  | eIdle | eValidate | eOpen | eLook | eSerial | eHead | eTags | eMain | eTail | eFinal | eDone | eError
  | dIdle | dHead | dOpen | dTags | dFrame | dDone | dError
  /-- `write_packet` with end marker NORMAL (30_encoding.md R72, 43_encode.md R166). -/
  | normal
  /-- `write_packet` with end marker END_PAGE. -/
  | endPage
  /-- `write_packet` with end marker END_STREAM. -/
  | endStream
  /-- Error code 0 at a pipeline: no error recorded (60_exceptions.md R200). -/
  | errNone (p : Pipe)
  /-- `raise MalformedAudio(0)` in a pipeline (60_exceptions.md R200, R203), and so on for the codes 2 to 6. -/
  | malformedAudio (p : Pipe)
  | invalidSampleRate (p : Pipe)
  | codecFailure (p : Pipe) (info : BitVec 32)
  | ioFailure (p : Pipe) (info : BitVec 32)
  | assertFail (p : Pipe)
  | illegalCommand (p : Pipe)
  /-- An identification header packet (30_encoding.md R66): the fields from offset 9 on and the bytes past the record. -/
  | opusHead (ch : BitVec 8) (preSkip : BitVec 16) (rate : BitVec 32) (gain : BitVec 16) (family : BitVec 8)
      (extra : List Byte)
  /-- A comment header packet (30_encoding.md R69): the length field at offset 8 and every byte from offset 12 on. -/
  | opusTags (vendorLen : BitVec 32) (body : List Byte)
deriving DecidableEq, Repr

/-- An encoded thing at the place where OOFD decodes it. The same bits mean different things at different places
(30_encoding.md sections 1 to 6), so a word is read together with its place. -/
inductive Code where
  /-- A word written to ENC.CMD (R60). -/
  | encCmd (w : BitVec 64)
  /-- A word written to DEC.CMD (R60). -/
  | decCmd (w : BitVec 64)
  /-- The inputs of the CONV port (R65). -/
  | conv (sel : BitVec 2) (value : BitVec 64) (src dst : BitVec 32)
  /-- The code in ENC.PHASE (R64). -/
  | encPhase (c : BitVec 4)
  /-- The code in DEC.PHASE (R64). -/
  | decPhase (c : BitVec 4)
  /-- The end marker of a write descriptor (R72). -/
  | endMark (m : BitVec 2)
  /-- An error code with the value recorded beside it (60_exceptions.md R200, R202). -/
  | errCode (p : Pipe) (c : BitVec 3) (info : BitVec 32)
  /-- The packet DEC reads as the identification header (R68). -/
  | headPacket (bytes : List Byte)
  /-- The packet DEC reads as the comment header (R70). -/
  | tagsPacket (bytes : List Byte)
deriving DecidableEq, Repr

end Sys2Proof
end

