-- ==== Sys2Proof/WellFormed.lean ====
section
/-! DEFINITION. The operand conditions that the encodings state (30_encoding.md R62, R65, R68). -/

namespace Sys2Proof

/-- An instruction whose operands the encoding allows: a channel operand of ENCODE of at most 2 (R62), zero in the
must-be-zero part of VALUE (R65), a header channel byte of 1 or 2 (R66, R68). What the machine does with the others is
in their meanings (IllegalCommand, OK = 0, MalformedAudio). -/
def WellFormed : Instr → Bool
  | .encode ch _ => decide (ch.toNat ≤ 2)
  | .scale16 value _ _ => decide (value.toNat < 65536)
  | .valrate value => decide (value.toNat < 4294967296)
  | .opusHead ch _ _ _ _ _ => decide (ch = 1) || decide (ch = 2)
  | _ => true

end Sys2Proof
end

