-- ==== Sys2Proof/Decode.lean ====
section
/-! DEFINITION. The decoder and the encoder of 30_encoding.md: total on every encoded form, with the byte-order helpers of
00_scope.md R8. -/

namespace Sys2Proof

/-! ### Bytes -/

/-- `put_le16` (00_scope.md R8, 20_memory.md R41). -/
def putLe16 (v : BitVec 16) : List Byte := [v.extractLsb' 0 8, v.extractLsb' 8 8]

/-- `put_le32` (00_scope.md R8). -/
def putLe32 (v : BitVec 32) : List Byte :=
  [v.extractLsb' 0 8, v.extractLsb' 8 8, v.extractLsb' 16 8, v.extractLsb' 24 8]

/-- `le16` of two bytes, lower first (00_scope.md R8). -/
def le16 (b0 b1 : Byte) : BitVec 16 := b1 ++ b0

/-- `le32` of four bytes, lowest first (00_scope.md R8). -/
def le32 (b0 b1 b2 b3 : Byte) : BitVec 32 := b3 ++ b2 ++ b1 ++ b0

/-- "OpusHead" in ASCII (30_encoding.md R66). -/
def headMagic : List Byte := [0x4F, 0x70, 0x75, 0x73, 0x48, 0x65, 0x61, 0x64]

/-- "OpusTags" in ASCII (30_encoding.md R69). -/
def tagsMagic : List Byte := [0x4F, 0x70, 0x75, 0x73, 0x54, 0x61, 0x67, 0x73]

/-- `HEAD_VERSION` (00_scope.md R6). -/
def headVersion : Byte := 1

/-- The identification header of 30_encoding.md R66, with what follows the 19-byte record. -/
def opusHeadBytes (ch : BitVec 8) (preSkip : BitVec 16) (rate : BitVec 32) (gain : BitVec 16) (family : BitVec 8)
    (extra : List Byte) : List Byte :=
  headMagic ++ [headVersion, ch] ++ putLe16 preSkip ++ putLe32 rate ++ putLe16 gain ++ [family] ++ extra

/-- A comment header of 30_encoding.md R69: the bytes from offset 12 on are the body. -/
def opusTagsBytes (vendorLen : BitVec 32) (body : List Byte) : List Byte :=
  tagsMagic ++ putLe32 vendorLen ++ body

/-! ### Codes -/

/-- The 4-bit phase codes of 30_encoding.md R64. -/
abbrev Phase.eIdle : BitVec 4 := 0
abbrev Phase.eValidate : BitVec 4 := 1
abbrev Phase.eOpen : BitVec 4 := 2
abbrev Phase.eLook : BitVec 4 := 3
abbrev Phase.eSerial : BitVec 4 := 4
abbrev Phase.eHead : BitVec 4 := 5
abbrev Phase.eTags : BitVec 4 := 6
abbrev Phase.eMain : BitVec 4 := 7
abbrev Phase.eTail : BitVec 4 := 8
abbrev Phase.eFinal : BitVec 4 := 9
abbrev Phase.eDone : BitVec 4 := 10
abbrev Phase.eError : BitVec 4 := 15
abbrev Phase.dIdle : BitVec 4 := 0
abbrev Phase.dHead : BitVec 4 := 1
abbrev Phase.dOpen : BitVec 4 := 2
abbrev Phase.dTags : BitVec 4 := 3
abbrev Phase.dFrame : BitVec 4 := 4
abbrev Phase.dDone : BitVec 4 := 5
abbrev Phase.dError : BitVec 4 := 15

/-- The end markers of 30_encoding.md R72. -/
abbrev Marker.normal : BitVec 2 := 0
abbrev Marker.endPage : BitVec 2 := 1
abbrev Marker.endStream : BitVec 2 := 2

/-! ### Decoding -/

/-- What the decoder answers: an instruction, or the reserved encoding it refuses, by name. Every word at a command port
and every packet has a reading (`IllegalCommand`, `MalformedAudio`), so only phase codes, end marker 3 and error code 7
are refused (30_encoding.md R74, 60_exceptions.md R200). -/
inductive Decoded where
  | instr (i : Instr)
  | reservedEncPhase (c : BitVec 4)
  | reservedDecPhase (c : BitVec 4)
  | reservedEndMark
  | reservedErrCode
deriving DecidableEq, Repr

/-- A word at ENC.CMD (30_encoding.md R60 to R62). The CH operand is checked by the meaning of ENCODE. -/
def decodeEncCmd (w : BitVec 64) : Instr :=
  if w.extractLsb' 0 8 = 1 ∧ w.extractLsb' 48 16 = 0 then .encode (w.extractLsb' 8 8) (w.extractLsb' 16 32)
  else .illegalCommand .enc

/-- A word at DEC.CMD (30_encoding.md R60 to R62). -/
def decodeDecCmd (w : BitVec 64) : Instr :=
  if w.extractLsb' 0 8 = 2 ∧ w.extractLsb' 8 8 = 0 ∧ w.extractLsb' 48 16 = 0 then .decode (w.extractLsb' 16 32)
  else .illegalCommand .dec

/-- The CONV port's inputs (30_encoding.md R65). -/
def decodeConv (sel : BitVec 2) (value : BitVec 64) (src dst : BitVec 32) : Instr :=
  match sel.toNat with
  | 0 => .scale16 value src dst
  | 1 => .scale64 value src dst
  | 2 => .valrate value
  | _ => .convReserved

/-- ENC.PHASE (30_encoding.md R64). -/
def decodeEncPhase (c : BitVec 4) : Decoded :=
  match c.toNat with
  | 0 => .instr .eIdle
  | 1 => .instr .eValidate
  | 2 => .instr .eOpen
  | 3 => .instr .eLook
  | 4 => .instr .eSerial
  | 5 => .instr .eHead
  | 6 => .instr .eTags
  | 7 => .instr .eMain
  | 8 => .instr .eTail
  | 9 => .instr .eFinal
  | 10 => .instr .eDone
  | 15 => .instr .eError
  | _ => .reservedEncPhase c

/-- DEC.PHASE (30_encoding.md R64). -/
def decodeDecPhase (c : BitVec 4) : Decoded :=
  match c.toNat with
  | 0 => .instr .dIdle
  | 1 => .instr .dHead
  | 2 => .instr .dOpen
  | 3 => .instr .dTags
  | 4 => .instr .dFrame
  | 5 => .instr .dDone
  | 15 => .instr .dError
  | _ => .reservedDecPhase c

/-- An end marker (30_encoding.md R72). -/
def decodeEndMark (m : BitVec 2) : Decoded :=
  match m.toNat with
  | 0 => .instr .normal
  | 1 => .instr .endPage
  | 2 => .instr .endStream
  | _ => .reservedEndMark

/-- An error code with its information value (60_exceptions.md R200, R202). -/
def decodeErrCode (p : Pipe) (c : BitVec 3) (info : BitVec 32) : Decoded :=
  match c.toNat with
  | 0 => .instr (.errNone p)
  | 1 => .instr (.malformedAudio p)
  | 2 => .instr (.invalidSampleRate p)
  | 3 => .instr (.codecFailure p info)
  | 4 => .instr (.ioFailure p info)
  | 5 => .instr (.assertFail p)
  | 6 => .instr (.illegalCommand p)
  | _ => .reservedErrCode

/-- The identification header packet: length, magic and version of 42_decode.md R132; a packet that fails one of them
reads as `MalformedAudio` (30_encoding.md R68). The channel byte is checked by the meaning of OPUSHEAD. -/
def decodeHeadPacket : List Byte → Instr
  | b0 :: b1 :: b2 :: b3 :: b4 :: b5 :: b6 :: b7 :: b8 :: b9 :: b10 :: b11 :: b12 :: b13 :: b14 :: b15 :: b16 :: b17 ::
      b18 :: extra =>
    if [b0, b1, b2, b3, b4, b5, b6, b7] = headMagic ∧ b8 = headVersion then
      .opusHead b9 (le16 b10 b11) (le32 b12 b13 b14 b15) (le16 b16 b17) b18 extra
    else .malformedAudio .dec
  | _ => .malformedAudio .dec

/-- The comment header packet: length at least 12 and magic (42_decode.md R136); anything else reads as
`MalformedAudio`. -/
def decodeTagsPacket : List Byte → Instr
  | b0 :: b1 :: b2 :: b3 :: b4 :: b5 :: b6 :: b7 :: b8 :: b9 :: b10 :: b11 :: body =>
    if [b0, b1, b2, b3, b4, b5, b6, b7] = tagsMagic then .opusTags (le32 b8 b9 b10 b11) body
    else .malformedAudio .dec
  | _ => .malformedAudio .dec

/-- The decoder: total on every encoded form. -/
def decode : Code → Decoded
  | .encCmd w => .instr (decodeEncCmd w)
  | .decCmd w => .instr (decodeDecCmd w)
  | .conv sel value src dst => .instr (decodeConv sel value src dst)
  | .encPhase c => decodeEncPhase c
  | .decPhase c => decodeDecPhase c
  | .endMark m => decodeEndMark m
  | .errCode p c info => decodeErrCode p c info
  | .headPacket b => .instr (decodeHeadPacket b)
  | .tagsPacket b => .instr (decodeTagsPacket b)

/-! ### Encoding -/

/-- The encoded form of an instruction, written from the same tables: `(rate << 16) | (ch << 8) | 0x01` and so on
(30_encoding.md R60 to R76, 60_exceptions.md R200). -/
def encode : Instr → Code
  | .encode ch rate => .encCmd (0#16 ++ rate ++ ch ++ 0x01#8)
  | .decode rate => .decCmd (0#16 ++ rate ++ 0#8 ++ 0x02#8)
  | .scale16 value src dst => .conv 0 value src dst
  | .scale64 value src dst => .conv 1 value src dst
  | .valrate value => .conv 2 value 0 0
  | .convReserved => .conv 3 0 0 0
  | .eIdle => .encPhase Phase.eIdle
  | .eValidate => .encPhase Phase.eValidate
  | .eOpen => .encPhase Phase.eOpen
  | .eLook => .encPhase Phase.eLook
  | .eSerial => .encPhase Phase.eSerial
  | .eHead => .encPhase Phase.eHead
  | .eTags => .encPhase Phase.eTags
  | .eMain => .encPhase Phase.eMain
  | .eTail => .encPhase Phase.eTail
  | .eFinal => .encPhase Phase.eFinal
  | .eDone => .encPhase Phase.eDone
  | .eError => .encPhase Phase.eError
  | .dIdle => .decPhase Phase.dIdle
  | .dHead => .decPhase Phase.dHead
  | .dOpen => .decPhase Phase.dOpen
  | .dTags => .decPhase Phase.dTags
  | .dFrame => .decPhase Phase.dFrame
  | .dDone => .decPhase Phase.dDone
  | .dError => .decPhase Phase.dError
  | .normal => .endMark Marker.normal
  | .endPage => .endMark Marker.endPage
  | .endStream => .endMark Marker.endStream
  | .errNone p => .errCode p 0 0
  | .malformedAudio p => .errCode p 1 0
  | .invalidSampleRate p => .errCode p 2 0
  | .codecFailure p info => .errCode p 3 info
  | .ioFailure p info => .errCode p 4 info
  | .assertFail p => .errCode p 5 0
  | .illegalCommand p => .errCode p 6 0
  | .opusHead ch preSkip rate gain family extra => .headPacket (opusHeadBytes ch preSkip rate gain family extra)
  | .opusTags vendorLen body => .tagsPacket (opusTagsBytes vendorLen body)

/-! ### The opcode table's words -/

/-- The `n` lowest bytes of a number, lowest first. -/
def bytesOf (w : Nat) : Nat → List Byte
  | 0 => []
  | n + 1 => BitVec.ofNat 8 w :: bytesOf (w / 256) n

/-- The place at which a word of the opcode table stands. The table numbers five formats (CONVSEL, ENC.PHASE,
DEC.PHASE, ENDMARK, ERRCODE) from 0 in one byte, so a bare byte does not say its format: it is read at the first format
in the table's order that the word fits (log 18). A packet is recognised by its magic and continues in zero bytes, a
header to its 19 bytes and a comment header to the 16 bytes of an empty vendor string. -/
def tableCode (nbits w : Nat) : Option Code :=
  if w % 2 ^ 64 = 0x646165487375704F then some (.headPacket (bytesOf w (max (nbits / 8) 19)))
  else if w % 2 ^ 64 = 0x736761547375704F then some (.tagsPacket (bytesOf w (max (nbits / 8) 16)))
  else if 8 < nbits then
    if w < 2 ^ 64 then
      if w % 256 = 2 then some (.decCmd (BitVec.ofNat 64 w)) else some (.encCmd (BitVec.ofNat 64 w))
    else none
  else if nbits = 3 then
    if w < 8 then some (.errCode .enc (BitVec.ofNat 3 w) 0) else none
  else if nbits = 4 then
    if w < 16 then some (.encPhase (BitVec.ofNat 4 w)) else none
  else if w < 4 then some (.conv (BitVec.ofNat 2 w) 0 0 0)
  else if w < 16 then some (.encPhase (BitVec.ofNat 4 w))
  else none

/-- The instruction the decoder reads from a word of the opcode table (bit 0 of the first byte is bit 0 of `w`). -/
def decodeTableWord (nbits w : Nat) : Option Instr :=
  match tableCode nbits w with
  | some c =>
    match decode c with
    | .instr i => some i
    | _ => none
  | none => none

end Sys2Proof
end

