-- ==== Sys2Proof/Machine/State.lean ====
section
/-! DEFINITION. The state of OOFD as plain data (10_state.md R10 to R20, 20_memory.md R40), what lies behind its ports
(60_exceptions.md R213, R214), the host's pending operations, and the reset state (10_state.md R30). -/

namespace Sys2Proof.Machine

/-! ### Memory -/

/-- A space of 20_memory.md R40: its written elements by index, indices strictly rising. An index that is not listed
has never been written and holds no value; how it reads is said once, in Machine/Ops.lean. A byte space is a list of
`Host.Cell`. -/
abbrev Memory (w : Nat) := List (Nat × BitVec w)

/-- The canonical form: indices strictly rising. -/
def Memory.wf {w : Nat} : Memory w → Bool
  | [] => true
  | [_] => true
  | (a, _) :: (b, v) :: rest => decide (a < b) && Memory.wf ((b, v) :: rest)

/-! ### Ports (60_exceptions.md R213, R214) -/

/-- A port's answer `Ok(...)` or `Err(reason)` (00_scope.md R8). -/
inductive Answer (α : Type) where
  | ok (a : α)
  | err (reason : BitVec 32)
deriving DecidableEq, Repr

/-- What OGGRD.read_next_packet answers (30_encoding.md R71). -/
inductive ReadAnswer where
  | packet (bytes : List Byte) (gran : BitVec 64) (last : Bool)
  | exhausted
  | err (reason : BitVec 32)
deriving DecidableEq, Repr

/-- The codec profile; the hardware asks for one only (00_scope.md R6, `PROFILE`). -/
inductive Profile where
  | audio
deriving DecidableEq, Repr

/-- The transactions of port OPUSENC with their arguments (60_exceptions.md R213). -/
inductive EncReq where
  | construct (rate : BitVec 32) (ch : BitVec 8) (profile : Profile)
  | setBitrate (bitsPerSecond : Nat)
  | lookahead
  | encode (frame : List Sample) (samplesPerChannel : Nat) (capacity : Nat)
  | finalRange
deriving DecidableEq, Repr

/-- The transactions of port OPUSDEC with their arguments (60_exceptions.md R213). -/
inductive DecReq where
  | construct (rate : BitVec 32) (ch : BitVec 8)
  | setGain (gain : BitVec 16)
  | decode (bytes : List Byte) (capacityPerChannel : Nat)
  | finalRange
deriving DecidableEq, Repr

/-- A write descriptor of port OGGWR (30_encoding.md R72). -/
structure Packet where
  bytes : List Byte
  serial : BitVec 32
  marker : BitVec 2
  gran : BitVec 64
deriving DecidableEq, Repr

/-- The answers OPUSENC will give, per transaction, first one first (log 4). -/
structure EncScript where
  construct : List (Answer Unit)
  bitrate : List (Answer Unit)
  lookahead : List (Answer Nat)
  encode : List (Answer (List Byte))
  range : List (BitVec 32)
deriving DecidableEq, Repr

/-- What OPUSDEC.decode answers: the per-channel sample count and the elements it writes (42_decode.md R138). -/
structure Decoding where
  n : Nat
  samples : List Sample
deriving DecidableEq, Repr

/-- The answers OPUSDEC will give, per transaction, first one first (log 4). -/
structure DecScript where
  construct : List (Answer Unit)
  gain : List (Answer Unit)
  decode : List (Answer Decoding)
  range : List (BitVec 32)
deriving DecidableEq, Repr

/-- A codec instance: what it was constructed with, and the bitrate (encoder) once set (10_state.md R19 (a)). -/
structure EncInst where
  rate : BitVec 32
  ch : BitVec 8
  bitrate : Option Nat
deriving DecidableEq, Repr

/-- A decoder instance with the gain once set (10_state.md R19 (a)). -/
structure DecInst where
  rate : BitVec 32
  ch : BitVec 8
  gain : Option (BitVec 16)
deriving DecidableEq, Repr

/-- Port OPUSENC: the instance if one exists, the answers to come, the transactions completed (oldest first). -/
structure OpusEnc where
  inst : Option EncInst
  script : EncScript
  sent : List EncReq
deriving DecidableEq, Repr

/-- Port OPUSDEC. -/
structure OpusDec where
  inst : Option DecInst
  script : DecScript
  sent : List DecReq
deriving DecidableEq, Repr

/-- Port OGGRD: the answers to come and the number of reads completed. -/
structure OggRd where
  script : List ReadAnswer
  reads : Nat
deriving DecidableEq, Repr

/-- Port OGGWR: the answers to come, the packets handed over and the packets accepted (oldest first). -/
structure OggWr where
  script : List (Answer Unit)
  sent : List Packet
  accepted : List Packet
deriving DecidableEq, Repr

/-! ### The pipelines -/

/-- The error kinds of 60_exceptions.md R200, codes 1 to 6. -/
inductive ErrKind where
  | malformedAudio | invalidSampleRate | codecFailure | ioFailure | assertFail | illegalCommand
deriving DecidableEq, Repr

/-- What ENC is in the middle of inside its phase (the model's own, log 3): nothing yet; the second transaction of
E_OPEN; the loop test of E_MAIN; the encode transaction of a frame of so many slots; the final_range transaction after
it; a write descriptor posted for OGGWR (30_encoding.md R72); an error code posted for `raise` (log 16). -/
inductive EncPend where
  | start
  | bitrate
  | loop
  | encode (slots : Nat)
  | range (len slots : Nat)
  | write (len : Nat) (marker : BitVec 2) (gran : BitVec 64)
  | error (code : BitVec 3) (info : BitVec 32)
deriving DecidableEq, Repr

/-- What DEC is in the middle of inside its phase (log 3): nothing yet; set_gain of D_OPEN; the first packet read and to
be interpreted; the second packet likewise; an audio packet read and to be decoded; the final_range transaction after
it; an error code posted for `raise` (log 16). -/
inductive DecPend where
  | start
  | gain
  | head
  | tags
  | packet
  | range
  | error (code : BitVec 3) (info : BitVec 32)
deriving DecidableEq, Repr

/-- The encoder pipeline: 10_state.md R11, R14, R16, R17, R18. -/
structure Enc where
  phase : BitVec 4
  err : BitVec 3
  errInfo : BitVec 32
  eos : Bool
  diag : BitVec 32
  diagV : Bool
  /-- The CH field of the command word, kept for E_VALIDATE (30_encoding.md R63). -/
  cmdCh : BitVec 8
  rate : BitVec 32
  ch : BitVec 8
  n : BitVec 64
  skip : BitVec 16
  skipSl : BitVec 64
  skip48 : BitVec 16
  total : BitVec 64
  serial : BitVec 32
  fs : BitVec 64
  fsz : BitVec 64
  max : BitVec 64
  idx : BitVec 64
  pos : BitVec 64
  frameBuf : Memory 16
  pktBuf : Memory 8
  /-- The indices of PCM_IN that the host has written during this invocation (U10, log 10). -/
  raced : List Nat
  pend : EncPend
deriving DecidableEq, Repr

/-- The decoder pipeline: 10_state.md R12, R14, R16, R17, R18 and PKT_IN of 20_memory.md R40. -/
structure Dec where
  phase : BitVec 4
  err : BitVec 3
  errInfo : BitVec 32
  diag : BitVec 32
  diagV : Bool
  outLen : BitVec 64
  outCh : BitVec 16
  tRate : BitVec 32
  ch : BitVec 8
  preSkip48 : BitVec 16
  gain : BitVec 16
  skipRem : BitVec 16
  totalDec : BitVec 64
  nDec : BitVec 16
  pktLen : BitVec 32
  pktGran : BitVec 64
  pktLast : Bool
  pktIn : Memory 8
  scratch : Memory 16
  pend : DecPend
deriving DecidableEq, Repr

/-! ### The host -/

/-- The host-readable registers (10_state.md R16), the level DONE_OUT (60_exceptions.md R208) and ENC.N. -/
inductive HostReg where
  | status (p : Pipe)
  | err (p : Pipe)
  | errInfo (p : Pipe)
  | diag (p : Pipe)
  | diagV (p : Pipe)
  | doneOut (p : Pipe)
  | encN
  | encEos
  | decOutLen
  | decOutCh
deriving DecidableEq, Repr

/-- The host's operations (44_sequencing_and_access.md R182 (a), 30_encoding.md R76). -/
inductive HostOp where
  /-- Write ENC.CMD (`ENCODE rate, ch`). -/
  | encCmd (w : BitVec 64)
  /-- Write DEC.CMD (`DECODE rate`). -/
  | decCmd (w : BitVec 64)
  /-- Drive the CONV port. -/
  | conv (sel : BitVec 2) (value : BitVec 64) (src dst : BitVec 32)
  /-- `SET ENC.N, v`. -/
  | setN (v : BitVec 64)
  /-- `LOAD PCM_IN`: write elements from an index on. -/
  | loadPcm (base : Nat) (elems : List Sample)
  /-- `ATTACH port, source`, one per port. -/
  | attachOpusEnc (script : EncScript)
  | attachOpusDec (script : DecScript)
  | attachOggRd (script : List ReadAnswer)
  | attachOggWr (script : List (Answer Unit))
  /-- Supply a sample of RAND32 (70_reset_and_hazards.md R241). -/
  | supplyRand (v : BitVec 32)
  /-- `READ reg`. -/
  | read (r : HostReg)
  /-- Read one element of PCM_OUT (20_memory.md R40, 44_sequencing_and_access.md R182 (b)). -/
  | readPcmOut (i : Nat)
  /-- `WAIT p`: read STATUS until it is DONE or ERROR. -/
  | wait (p : Pipe)
  /-- Assert and release RESET (70_reset_and_hazards.md R230). -/
  | reset
deriving DecidableEq, Repr

/-- The agents that take steps (60_exceptions.md R215). -/
inductive Agent where
  | host | enc | dec
deriving DecidableEq, Repr

/-- The output lines of the CONV port (30_encoding.md R65). -/
structure ConvOut where
  result : BitVec 64
  ok : Bool
deriving DecidableEq, Repr

/-! ### The whole machine -/

/-- The state of OOFD with its ports, its parameters and the host. -/
structure State where
  enc : Enc
  dec : Dec
  pcmIn : Memory 16
  pcmOut : Memory 16
  opusEnc : OpusEnc
  opusDec : OpusDec
  oggRd : OggRd
  oggWr : OggWr
  params : Params
  /-- Injected samples of RAND32, first one first (log 7). -/
  randIn : List (BitVec 32)
  /-- How many free values have been drawn (log 7, log 10). -/
  freeCount : Nat
  /-- The host's pending operations, first one first (log 1). -/
  inputs : List HostOp
  /-- Who takes the next steps (log 2). -/
  sched : List Agent
  /-- The CONV port's outputs as last driven (log 12). -/
  convOut : ConvOut
  /-- What the host's last read, of a register or of PCM_OUT, returned (log 12). -/
  readOut : BitVec 64
deriving DecidableEq, Repr

/-- Faults of the model: encodings that no rule writes (93_implementation_defined.md U15) and an element that a space does not
have (20_memory.md R40). Each is raised by the step function when it meets the case, and each is safe: the machine stops where
the spec gives nothing. -/
inductive Fault where
  /-- ENC.PHASE holds one of the codes 11 to 14. Raised by `step`; safe. -/
  | reservedEncPhase (c : BitVec 4)
  /-- DEC.PHASE holds one of the codes 6 to 14. Raised by `step`; safe. -/
  | reservedDecPhase (c : BitVec 4)
  /-- A posted write descriptor holds end marker 3. Raised by `step`; safe. -/
  | reservedEndMark
  /-- A posted error code is 7. Raised by `step`; safe. -/
  | reservedErrCode
  /-- The host reads an element that PCM_OUT does not have (log 34). Raised by `hostOp`; safe. -/
  | noSuchOutput (i : Nat)
deriving DecidableEq, Repr

/-- Refusals of the model. -/
inductive Refusal where
  /-- An instruction without a meaning; raised by `exec` only; safe. No arm raises it in this model. -/
  | notModelled (mnemonic : String)
  /-- E_TAGS with VENDOR longer than 3984 bytes (93_implementation_defined.md U12, treatment `refuse`). Raised by the
  meaning of E_TAGS; safe. -/
  | vendorTooLong
deriving DecidableEq, Repr

/-! ### Updates: one per field that a rule, a port transaction or the host writes -/

def State.withEnc (s : State) (x : Enc) : State := { s with enc := x }
def State.withDec (s : State) (x : Dec) : State := { s with dec := x }
def State.withPcmIn (s : State) (x : Memory 16) : State := { s with pcmIn := x }
def State.withPcmOut (s : State) (x : Memory 16) : State := { s with pcmOut := x }
def State.withOpusEnc (s : State) (x : OpusEnc) : State := { s with opusEnc := x }
def State.withOpusDec (s : State) (x : OpusDec) : State := { s with opusDec := x }
def State.withOggRd (s : State) (x : OggRd) : State := { s with oggRd := x }
def State.withOggWr (s : State) (x : OggWr) : State := { s with oggWr := x }
def State.withRandIn (s : State) (x : List (BitVec 32)) : State := { s with randIn := x }
def State.withFreeCount (s : State) (x : Nat) : State := { s with freeCount := x }
def State.withInputs (s : State) (x : List HostOp) : State := { s with inputs := x }
def State.withSched (s : State) (x : List Agent) : State := { s with sched := x }
def State.withConvOut (s : State) (x : ConvOut) : State := { s with convOut := x }
def State.withReadOut (s : State) (x : BitVec 64) : State := { s with readOut := x }

/-! ### Reset -/

/-- ENC after reset (10_state.md R30): PHASE, ERR, ERRINFO, EOS and DIAGV are zero by R30, the rest zero by log 5, and no
element of a buffer has been written. -/
def Enc.reset : Enc where
  phase := Phase.eIdle
  err := 0
  errInfo := 0
  eos := false
  diag := 0
  diagV := false
  cmdCh := 0
  rate := 0
  ch := 0
  n := 0
  skip := 0
  skipSl := 0
  skip48 := 0
  total := 0
  serial := 0
  fs := 0
  fsz := 0
  max := 0
  idx := 0
  pos := 0
  frameBuf := []
  pktBuf := []
  raced := []
  pend := .start

/-- DEC after reset (10_state.md R30): PHASE, ERR, ERRINFO, DIAGV, OUTLEN and OUT_CH are zero by R30, the rest zero by
log 5, and no element of a buffer has been written. -/
def Dec.reset : Dec where
  phase := Phase.dIdle
  err := 0
  errInfo := 0
  diag := 0
  diagV := false
  outLen := 0
  outCh := 0
  tRate := 0
  ch := 0
  preSkip48 := 0
  gain := 0
  skipRem := 0
  totalDec := 0
  nDec := 0
  pktLen := 0
  pktGran := 0
  pktLast := false
  pktIn := []
  scratch := []
  pend := .start

/-- The machine right after reset (10_state.md R30, 70_reset_and_hazards.md R230): both pipelines idle, no codec
instance, PCM_OUT empty; nothing attached to a port has answered, the host has nothing pending. The parameters are those
of log 6. -/
def State.reset : State where
  enc := Enc.reset
  dec := Dec.reset
  pcmIn := []
  pcmOut := []
  opusEnc := { inst := none, script := ⟨[], [], [], [], []⟩, sent := [] }
  opusDec := { inst := none, script := ⟨[], [], [], []⟩, sent := [] }
  oggRd := { script := [], reads := 0 }
  oggWr := { script := [], sent := [], accepted := [] }
  params := { vendor := [], instanceId := 0, diagEn := false, unitMode := .literal }
  randIn := []
  freeCount := 0
  inputs := []
  sched := []
  convOut := { result := 0, ok := false }
  readOut := 0

end Sys2Proof.Machine
end

