-- ==== Sys2Proof/Machine/Ops.lean ====
section
/-! DEFINITION. The shared operations: memory accesses (20_memory.md), narrowing, `raise` (60_exceptions.md R203) and
completion (42_decode.md R140, 43_encode.md R173), and the port transactions (60_exceptions.md R213, R214). -/

namespace Sys2Proof.Machine

/-! ### Memory -/

/-- The written element at an index, if any. -/
def Memory.read {w : Nat} : Memory w → Nat → Option (BitVec w)
  | [], _ => none
  | (b, v) :: rest, a => if b = a then some v else Memory.read rest a

/-- Write one element, keeping the indices rising. -/
def Memory.write {w : Nat} : Memory w → Nat → BitVec w → Memory w
  | [], a, v => [(a, v)]
  | (b, u) :: rest, a, v =>
    if a < b then (a, v) :: (b, u) :: rest
    else if a = b then (a, v) :: rest
    else (b, u) :: Memory.write rest a v

/-- Write consecutive elements in ascending index order (20_memory.md R43 (a)). -/
def Memory.writeBlock {w : Nat} : Memory w → Nat → List (BitVec w) → Memory w
  | m, _, [] => m
  | m, a, v :: vs => Memory.writeBlock (Memory.write m a v) (a + 1) vs

/-- Read `n` consecutive elements; one that nothing has written reads as `free` says. -/
def Memory.readBlock {w : Nat} (free : Nat → BitVec w) (m : Memory w) (a : Nat) : Nat → List (BitVec w)
  | 0 => []
  | n + 1 => (Memory.read m a).getD (free a) :: Memory.readBlock free m (a + 1) n

/-- One element of a PCM space; an element nothing has written is a free value (log 8). -/
def sampleAt (sp : Space) (m : Memory 16) (a : Nat) : Sample := (Memory.read m a).getD (Config.unwrittenSample sp a)

/-- `MemRead(space, a, n)` of a PCM space (00_scope.md R8). -/
def samplesAt (sp : Space) (m : Memory 16) (a n : Nat) : List Sample :=
  Memory.readBlock (Config.unwrittenSample sp) m a n

/-- One byte of a packet space; a byte nothing has written is a free value (log 8). -/
def byteAt (sp : Space) (m : Memory 8) (a : Nat) : Byte := (Memory.read m a).getD (Config.unwrittenByte sp a)

/-- `MemRead(space, a, n)` of a packet space (00_scope.md R8). -/
def bytesAt (sp : Space) (m : Memory 8) (a n : Nat) : List Byte := Memory.readBlock (Config.unwrittenByte sp) m a n

/-! ### Narrowing -/

/-- An exact result stored in a 64-bit register; where it does not fit, a free value (log 9, U20). -/
def toU64 (n : Nat) : BitVec 64 := if n < 2 ^ 64 then BitVec.ofNat 64 n else Config.u64Overflow n

/-- A packet length stored in 32 bits; where it does not fit, a free value (log 9). -/
def toU32 (n : Nat) : BitVec 32 := if n < 2 ^ 32 then BitVec.ofNat 32 n else Config.u32Overflow n

/-! ### Errors and completion -/

/-- The error codes of 60_exceptions.md R200. -/
def ErrKind.code : ErrKind → BitVec 3
  | .malformedAudio => 1
  | .invalidSampleRate => 2
  | .codecFailure => 3
  | .ioFailure => 4
  | .assertFail => 5
  | .illegalCommand => 6

/-- `raise <Error>(info)` in a pipeline (60_exceptions.md R203): ERR and ERRINFO recorded, the codec instance released,
PHASE at `*_ERROR`, and nothing else of the phase. -/
def raise (p : Pipe) (e : ErrKind) (info : BitVec 32) (s : State) : State :=
  match p with
  | .enc =>
    (s.withEnc { s.enc with err := e.code, errInfo := info, phase := Phase.eError, pend := .start }).withOpusEnc
      { s.opusEnc with inst := none }
  | .dec =>
    (s.withDec { s.dec with err := e.code, errInfo := info, phase := Phase.dError, pend := .start }).withOpusDec
      { s.opusDec with inst := none }

/-- E_DONE (43_encode.md R173): the OPUSENC instance released, STATUS reads DONE. Entering E_DONE and its actions are one
step (log 14). -/
def completeEnc (s : State) : State :=
  (s.withEnc { s.enc with phase := Phase.eDone, pend := .start }).withOpusEnc { s.opusEnc with inst := none }

/-- D_DONE (42_decode.md R140): OUT_CH from CH, the OPUSDEC instance released, STATUS reads DONE (log 14). -/
def completeDec (s : State) : State :=
  (s.withDec { s.dec with phase := Phase.dDone, pend := .start, outCh := s.dec.ch.setWidth 16 }).withOpusDec
    { s.opusDec with inst := none }

/-- ENC goes on in another phase. -/
def encPhaseTo (c : BitVec 4) (s : State) : State := s.withEnc { s.enc with phase := c, pend := .start }

/-- ENC stays in its phase with another pending action. -/
def encPend (x : EncPend) (s : State) : State := s.withEnc { s.enc with pend := x }

/-- DEC goes on in another phase. -/
def decPhaseTo (c : BitVec 4) (s : State) : State := s.withDec { s.dec with phase := c, pend := .start }

/-- DEC stays in its phase with another pending action. -/
def decPend (x : DecPend) (s : State) : State := s.withDec { s.dec with pend := x }

/-! ### Port transactions -/

/-- Record a completed OPUSENC transaction and take its answer off the script. -/
def opusEncDid (r : EncReq) (rest : EncScript) (s : State) : State :=
  s.withOpusEnc { s.opusEnc with sent := s.opusEnc.sent ++ [r], script := rest }

/-- Record a completed OPUSDEC transaction and take its answer off the script. -/
def opusDecDid (r : DecReq) (rest : DecScript) (s : State) : State :=
  s.withOpusDec { s.opusDec with sent := s.opusDec.sent ++ [r], script := rest }

/-- `OGGRD.read_next_packet()` (30_encoding.md R71; 42_decode.md R131, R136, R137). Without an answer DEC waits
(70_reset_and_hazards.md R239). A read failure raises IOFailure with its reason. A packet replaces PKT_IN and its
descriptor registers, and `next` is what DEC does with it. -/
def readNextPacket (next : DecPend) (onExhausted : State → State) (s : State) : State :=
  match s.oggRd.script with
  | [] => s
  | a :: rest =>
    let s1 := s.withOggRd { script := rest, reads := s.oggRd.reads + 1 }
    match a with
    | .err reason => raise .dec .ioFailure reason s1
    | .exhausted => onExhausted s1
    | .packet bytes gran last =>
      s1.withDec { s1.dec with
        pktIn := Memory.writeBlock [] 0 bytes
        pktLen := toU32 bytes.length
        pktGran := gran
        pktLast := last
        pend := next }

/-- `PKT_IN[0 .. DEC.PKT.LEN)`. -/
def pktBytes (s : State) : List Byte := bytesAt .pktIn s.dec.pktIn 0 s.dec.pktLen.toNat

end Sys2Proof.Machine
end

