-- ==== Sys2Proof/Machine/Flags.lean ====
section
/-! DEFINITION. STATUS, DONE_OUT and the host's view of the registers (10_state.md R15, R16, R17; 60_exceptions.md R208). -/

namespace Sys2Proof.Machine

/-- The values of STATUS (10_state.md R15). -/
inductive Status where
  | idle | busy | done | error
deriving DecidableEq, Repr

/-- STATUS as two bits (10_state.md R15). -/
def Status.code : Status → BitVec 2
  | .idle => 0
  | .busy => 1
  | .done => 2
  | .error => 3

/-- ENC.STATUS from ENC.PHASE (10_state.md R15). -/
def encStatusOf (c : BitVec 4) : Status :=
  if c = Phase.eIdle then .idle else if c = Phase.eDone then .done else if c = Phase.eError then .error else .busy

/-- DEC.STATUS from DEC.PHASE (10_state.md R15). -/
def decStatusOf (c : BitVec 4) : Status :=
  if c = Phase.dIdle then .idle else if c = Phase.dDone then .done else if c = Phase.dError then .error else .busy

/-- `p.STATUS`. -/
def status (p : Pipe) (s : State) : Status :=
  match p with
  | .enc => encStatusOf s.enc.phase
  | .dec => decStatusOf s.dec.phase

/-- `p.DONE_OUT`, 1 exactly when STATUS is DONE or ERROR (60_exceptions.md R208). -/
def doneOut (p : Pipe) (s : State) : Bool :=
  decide (status p s = .done) || decide (status p s = .error)

/-- A one-bit register read by the host. -/
def bit64 (b : Bool) : BitVec 64 := if b then 1 else 0

/-- What the host reads of a register (10_state.md R16), widened to 64 bits. -/
def readReg (s : State) : HostReg → BitVec 64
  | .status p => (status p s).code.setWidth 64
  | .err .enc => s.enc.err.setWidth 64
  | .err .dec => s.dec.err.setWidth 64
  | .errInfo .enc => s.enc.errInfo.setWidth 64
  | .errInfo .dec => s.dec.errInfo.setWidth 64
  | .diag .enc => s.enc.diag.setWidth 64
  | .diag .dec => s.dec.diag.setWidth 64
  | .diagV .enc => bit64 s.enc.diagV
  | .diagV .dec => bit64 s.dec.diagV
  | .doneOut p => bit64 (doneOut p s)
  | .encN => s.enc.n
  | .encEos => bit64 s.enc.eos
  | .decOutLen => s.dec.outLen
  | .decOutCh => s.dec.outCh.setWidth 64

end Sys2Proof.Machine
end

