-- ==== Sys2Proof/Machine/Operands.lean ====
section
/-! DEFINITION. The arithmetic of CONV (40_convert.md), the unit factors of 43_encode.md R162, the PCMU primitives of
41_pcm.md and the header packets ENC composes (30_encoding.md R67, R70). -/

namespace Sys2Proof.Machine

/-! ### CONV -/

/-- SCALE64 (40_convert.md R90) with its domain (R94): no result outside. -/
def scale64 (value src dst : Nat) : Option Nat :=
  if src = 0 ∨ 2 ^ 64 ≤ value * dst then none else some (value * dst / src)

/-- SCALE16 (40_convert.md R91) with its domain (R94). -/
def scale16 (value src dst : Nat) : Option Nat :=
  if src = 0 ∨ 65535 < value * dst / src then none else some (value * dst / src)

/-- VALRATE (40_convert.md R92): whether a rate is one of `RATES`. -/
def rateOk (rate : Nat) : Bool := Config.rates.contains rate

/-- The frame length of `FRAME_MS` = 20 ms in per-channel samples (43_encode.md R170). -/
def frameSamples (rate : Nat) : Nat := rate * Config.frameMs / 1000

/-- The descending short-frame durations `[S20, S10, S5, S2_5]` of a rate (40_convert.md R96). -/
def tailDurations (rate : Nat) : List Nat := [rate / 50, rate / 100, rate / 200, rate / 400]

/-- `S2_5`, the smallest standard duration (40_convert.md R96). -/
def smallestDuration (rate : Nat) : Nat := rate / 400

/-! ### Units (43_encode.md R162) -/

/-- `KS`, slots of silence per lookahead sample. -/
def unitKs (mode : UnitMode) (ch : Nat) : Nat :=
  match mode with
  | .literal => 1
  | .perChannel => ch

/-- `KG`, slots per granule unit in E_TAIL and E_FINAL. -/
def unitKg (mode : UnitMode) (ch : Nat) : Nat :=
  match mode with
  | .literal => 1
  | .perChannel => ch

/-! ### Interleaving (41_pcm.md R110) -/

/-- `ILV(k, c)`: the element of channel `c` at per-channel index `k`. -/
def ilv (nch k c : Nat) : Nat := k * nch + c

/-- `DILV(e)`: the per-channel index and the channel of an element. -/
def dilv (nch e : Nat) : Nat × Nat := (e / nch, e % nch)

/-! ### The encoder's timeline -/

/-- `PCM_IN[i]` as ENC reads it: an element the host has written during this invocation is a free value
(93_implementation_defined.md U10, log 10). -/
def inputAt (s : State) (i : Nat) : Sample :=
  if s.enc.raced.contains i then Config.racedSample s.freeCount i else sampleAt .pcmIn s.pcmIn i

/-- `WINDOW(p)` (41_pcm.md R112): silence, input, padding. No value when the input index lies outside `[0, ENC.N)`,
which is an AssertFail (20_memory.md R44, 43_encode.md R174). -/
def window (s : State) (p : Nat) : Option Sample :=
  if p < s.enc.skipSl.toNat then some 0
  else if p < s.enc.total.toNat then
    if p - s.enc.skipSl.toNat < s.enc.n.toNat then some (inputAt s (p - s.enc.skipSl.toNat)) else none
  else some 0

/-- What filling a frame leaves in ENC.FRAMEBUF, and whether it met an assertion. -/
inductive FillResult where
  | filled (m : Memory 16)
  | assertFail (m : Memory 16)
deriving DecidableEq, Repr

/-- The loop of FRAMEFILL (41_pcm.md R113): elements `j, j + 1, …` of the frame that starts at slot `a`. -/
def fillFrom (s : State) (a j : Nat) (m : Memory 16) : Nat → FillResult
  | 0 => .filled m
  | n + 1 =>
    match window s (a + j) with
    | some v => fillFrom s a (j + 1) (Memory.write m j v) n
    | none => .assertFail m

/-- `FRAMEFILL(a, L)` (41_pcm.md R113), after which the frame goes to the codec. -/
def frameFill (a slots : Nat) (s : State) : State :=
  if Config.frameBufCap < slots then raise .enc .assertFail 0 s
  else
    match fillFrom s a 0 s.enc.frameBuf slots with
    | .filled m => s.withEnc { s.enc with frameBuf := m, pend := .encode slots }
    | .assertFail m => raise .enc .assertFail 0 (s.withEnc { s.enc with frameBuf := m })

/-- The largest standard duration whose frame fits the remainder (43_encode.md R171). -/
def tailPick (rate ch pos total : Nat) : Option Nat :=
  (tailDurations rate).find? (fun d => decide (pos + d * ch ≤ total))

/-! ### The decoder's trimming -/

/-- `TAILTRIM(n, end, last)` (41_pcm.md R116) with the running total; no value where it raises MalformedAudio. -/
def tailTrim (n total endPos : Nat) (last : Bool) : Option Nat :=
  if last = true ∧ endPos < total then
    if n < total - endPos then none else some (n - (total - endPos))
  else some n

/-- `PRESKIP(keep)` (41_pcm.md R117): the start of the range to append, and the counter after. -/
def preSkip (keep skipRem : Nat) : Nat × Nat :=
  if keep ≤ skipRem then (keep, skipRem - keep) else (skipRem, 0)

/-- `APPEND(off, keep)` (41_pcm.md R118): the elements `[off * C, keep * C)` of DEC.SCRATCH go to PCM_OUT. -/
def append (off keep : Nat) (s : State) : State :=
  let ch := s.dec.ch.toNat
  let elems := samplesAt .scratch s.dec.scratch (off * ch) ((keep - off) * ch)
  (s.withPcmOut (Memory.writeBlock s.pcmOut s.dec.outLen.toNat elems)).withDec
    { s.dec with outLen := toU64 (s.dec.outLen.toNat + (keep - off) * ch) }

/-- `FRAMEOUT(n, end, last)` (41_pcm.md R119): RUNTOTAL, TAILTRIM, PRESKIP, APPEND in this order. DEC then goes back to
its loop (42_decode.md R137). -/
def frameOut (n endPos : Nat) (last : Bool) (s : State) : State :=
  let s1 := s.withDec { s.dec with totalDec := toU64 (s.dec.totalDec.toNat + n) }
  match tailTrim n s1.dec.totalDec.toNat endPos last with
  | none => raise .dec .malformedAudio 0 s1
  | some keep =>
    let r := preSkip keep s1.dec.skipRem.toNat
    append r.1 keep (s1.withDec { s1.dec with skipRem := BitVec.ofNat 16 r.2, pend := .start })

/-! ### Header packets ENC composes -/

/-- The identification header (30_encoding.md R67). -/
def idHeader (s : State) : List Byte := opusHeadBytes s.enc.ch s.enc.skip48 s.enc.rate 0 0 []

/-- The comment header (30_encoding.md R70): the vendor string and zero user comments. -/
def commentHeader (vendor : List Byte) : List Byte :=
  opusTagsBytes (BitVec.ofNat 32 vendor.length) (vendor ++ putLe32 0)

end Sys2Proof.Machine
end

