-- ==== Sys2Proof/Machine/Command.lean ====
section
/-! DEFINITION. The two host commands (30_encoding.md R60 to R63; 43_encode.md R160; 42_decode.md R130). -/

namespace Sys2Proof.Machine

/-- Acceptance of ENCODE (30_encoding.md R63, 10_state.md R31). What the rules do not write here, ENC.DIAG and the working
registers, keeps its value (U19, log 33). -/
def acceptEncode (ch : BitVec 8) (rate : BitVec 32) (s : State) : State :=
  s.withEnc { s.enc with
    err := 0
    errInfo := 0
    diagV := false
    eos := false
    rate := rate
    cmdCh := ch
    raced := []
    phase := Phase.eValidate
    pend := .start }

/-- Acceptance of DECODE (30_encoding.md R63, 10_state.md R31). What the rules do not write here, DEC.DIAG and the working
registers, keeps its value (U19, log 33). -/
def acceptDecode (rate : BitVec 32) (s : State) : State :=
  (s.withDec { s.dec with
    err := 0
    errInfo := 0
    diagV := false
    outLen := 0
    outCh := 0
    tRate := rate
    phase := Phase.dHead
    pend := .start }).withPcmOut []

/-- `ENCODE rate, ch` (43_encode.md R160): dropped while ENC is BUSY (30_encoding.md R63), IllegalCommand for a channel
operand above 2 (R62), else accepted. -/
def execEncode (ch : BitVec 8) (rate : BitVec 32) (s : State) : Host.Outcome State Fault Refusal :=
  if status .enc s = .busy then .next s
  else if 2 < ch.toNat then .next (raise .enc .illegalCommand 0 s)
  else .next (acceptEncode ch rate s)

/-- `DECODE rate` (42_decode.md R130): dropped while DEC is BUSY (30_encoding.md R63), else accepted. -/
def execDecode (rate : BitVec 32) (s : State) : Host.Outcome State Fault Refusal :=
  if status .dec s = .busy then .next s else .next (acceptDecode rate s)

end Sys2Proof.Machine
end

