-- ==== Sys2Proof/Machine/Conv.lean ====
section
/-! DEFINITION. The CONV port (30_encoding.md R65; 40_convert.md R90 to R94). The port has no state: an operation drives
RESULT and OK and changes nothing else (10_state.md R13). -/

namespace Sys2Proof.Machine

/-- Drive the port's outputs: a result with OK = 1, or OK = 0 and RESULT = 0 (30_encoding.md R65). -/
def driveConv (r : Option Nat) (s : State) : State :=
  match r with
  | some v => s.withConvOut { result := BitVec.ofNat 64 v, ok := true }
  | none => s.withConvOut { result := 0, ok := false }

/-- `SCALE16` (40_convert.md R91); a VALUE above 16 bits violates the must-be-zero part (30_encoding.md R65). -/
def execScale16 (value : BitVec 64) (src dst : BitVec 32) (s : State) : Host.Outcome State Fault Refusal :=
  .next (driveConv (if value.toNat < 65536 then scale16 value.toNat src.toNat dst.toNat else none) s)

/-- `SCALE64` (40_convert.md R90). -/
def execScale64 (value : BitVec 64) (src dst : BitVec 32) (s : State) : Host.Outcome State Fault Refusal :=
  .next (driveConv (scale64 value.toNat src.toNat dst.toNat) s)

/-- `VALRATE` (40_convert.md R92); a VALUE above 32 bits is no rate (30_encoding.md R65). -/
def execValrate (value : BitVec 64) (s : State) : Host.Outcome State Fault Refusal :=
  .next (driveConv (if rateOk value.toNat then some value.toNat else none) s)

/-- CONV with SEL = 3: OK = 0, RESULT = 0 (30_encoding.md R65). -/
def execConvReserved (s : State) : Host.Outcome State Fault Refusal := .next (driveConv none s)

end Sys2Proof.Machine
end

