-- ==== Sys2Proof/Machine/DecPhases.lean ====
section
/-! DEFINITION. The phases of the decoder pipeline (42_decode.md R131 to R140) and DEC's interpretation of the two header
packets. A phase that asks a port waits, unchanged, until the port has answered (70_reset_and_hazards.md R239). -/

namespace Sys2Proof.Machine

/-- `D_IDLE`: DEC waits for a command (10_state.md R14, 60_exceptions.md R217). -/
def execDIdle (s : State) : Host.Outcome State Fault Refusal := .next s

/-- `D_HEAD` (42_decode.md R131): read the first packet; its interpretation follows. -/
def execDHead (s : State) : Host.Outcome State Fault Refusal :=
  .next (readNextPacket .head (raise .dec .malformedAudio 0) s)

/-- OPUSHEAD, the first packet (42_decode.md R132, R133): the channel byte is checked, channel count, pre-skip and gain
are taken, and DEC goes on to D_OPEN. The rate, the mapping family and what follows byte 18 are ignored
(30_encoding.md R68). -/
def execOpusHead (ch : BitVec 8) (preSkip48 gain : BitVec 16) (s : State) : Host.Outcome State Fault Refusal :=
  .next (if ch = 1 ∨ ch = 2 then
    decPhaseTo Phase.dOpen (s.withDec { s.dec with ch := ch, preSkip48 := preSkip48, gain := gain })
  else raise .dec .malformedAudio 0 s)

/-- `OPUSDEC.construct` after the rate has been validated (42_decode.md R134). -/
def constructDec (s : State) : State :=
  if rateOk s.dec.tRate.toNat then
    match s.opusDec.script.construct with
    | [] => s
    | a :: rest =>
      let s1 := opusDecDid (.construct s.dec.tRate s.dec.ch) { s.opusDec.script with construct := rest } s
      match a with
      | .err reason => raise .dec .codecFailure reason s1
      | .ok _ => decPend .gain (s1.withOpusDec { s1.opusDec with inst := some ⟨s.dec.tRate, s.dec.ch, none⟩ })
  else raise .dec .invalidSampleRate 0 s

/-- The per-stream counters (42_decode.md R135). -/
def openCounters (s : State) : State :=
  match scale16 s.dec.preSkip48.toNat Config.refRate s.dec.tRate.toNat with
  | none => raise .dec .assertFail 0 s
  | some v => decPhaseTo Phase.dTags (s.withDec { s.dec with skipRem := BitVec.ofNat 16 v, totalDec := 0 })

/-- `OPUSDEC.set_gain` (42_decode.md R134), then the counters (R135). -/
def setGain (s : State) : State :=
  match s.opusDec.script.gain with
  | [] => s
  | a :: rest =>
    let s1 := opusDecDid (.setGain s.dec.gain) { s.opusDec.script with gain := rest } s
    match a with
    | .err reason => raise .dec .codecFailure reason s1
    | .ok _ =>
      openCounters (s1.withOpusDec { s1.opusDec with
        inst := s1.opusDec.inst.map (fun i => { i with gain := some s.dec.gain }) })

/-- `D_OPEN` (42_decode.md R134, R135). -/
def execDOpen (s : State) : Host.Outcome State Fault Refusal :=
  .next (match s.dec.pend with
    | .gain => setGain s
    | _ => constructDec s)

/-- `D_TAGS` (42_decode.md R136): read the second packet; its interpretation follows. -/
def execDTags (s : State) : Host.Outcome State Fault Refusal :=
  .next (readNextPacket .tags (raise .dec .malformedAudio 0) s)

/-- OPUSTAGS, the second packet (42_decode.md R136): nothing beyond the magic and the length is used, and DEC goes on to
D_FRAME. -/
def execOpusTags (s : State) : Host.Outcome State Fault Refusal := .next (decPhaseTo Phase.dFrame s)

/-- The trimming and appending of the frame just decoded (42_decode.md R138): the declared end position in the target
rate domain, AssertFail outside SCALE64's domain. -/
def frameEnd (s : State) : State :=
  match scale64 s.dec.pktGran.toNat Config.refRate s.dec.tRate.toNat with
  | none => raise .dec .assertFail 0 s
  | some e => frameOut s.dec.nDec.toNat e s.dec.pktLast s

/-- `OPUSDEC.decode` of the packet (42_decode.md R138). -/
def decodePacket (s : State) : State :=
  match s.opusDec.script.decode with
  | [] => s
  | a :: rest =>
    let s1 := opusDecDid (.decode (pktBytes s) Config.maxFrameSamples) { s.opusDec.script with decode := rest } s
    match a with
    | .err reason => raise .dec .codecFailure reason s1
    | .ok d =>
      if Config.maxFrameSamples < d.n then raise .dec .assertFail 0 s1
      else
        let s2 := s1.withDec { s1.dec with
          nDec := BitVec.ofNat 16 d.n
          scratch := Memory.writeBlock s1.dec.scratch 0 (d.samples.take (d.n * s1.dec.ch.toNat)) }
        if s.params.diagEn then decPend .range s2 else frameEnd s2

/-- The final_range transaction after a decoded frame (42_decode.md R138, 60_exceptions.md R216). -/
def decodeRange (s : State) : State :=
  match s.opusDec.script.range with
  | [] => s
  | v :: rest =>
    let s1 := opusDecDid .finalRange { s.opusDec.script with range := rest } s
    frameEnd (s1.withDec { s1.dec with diag := v, diagV := true })

/-- `D_FRAME` (42_decode.md R137, R138): read, decode, read the final range, append; None ends the loop. -/
def execDFrame (s : State) : Host.Outcome State Fault Refusal :=
  .next (match s.dec.pend with
    | .packet => decodePacket s
    | .range => decodeRange s
    | _ => readNextPacket .packet completeDec s)

/-- `D_DONE` (42_decode.md R140): the result stands in OUTLEN and OUT_CH, no codec instance; DEC rests here. -/
def execDDone (s : State) : Host.Outcome State Fault Refusal := .next (completeDec s)

/-- `D_ERROR` (60_exceptions.md R205, R206): DEC rests until the next command or reset. -/
def execDError (s : State) : Host.Outcome State Fault Refusal := .next s

end Sys2Proof.Machine
end

