-- ==== Sys2Proof/Machine/EncPhases.lean ====
section
/-! DEFINITION. The phases of the encoder pipeline (43_encode.md R161 to R173). A phase that asks a port waits, unchanged,
until the port has answered (70_reset_and_hazards.md R239). -/

namespace Sys2Proof.Machine

/-! ### Shared operations of the audio phases -/

/-- Post a packet of `len` bytes for OGGWR (43_encode.md R166). -/
def postWrite (len : Nat) (marker : BitVec 2) (gran : Nat) (s : State) : State :=
  encPend (.write len marker (BitVec.ofNat 64 gran)) s

/-- Post an audio packet with its granule position, or AssertFail where SCALE64 left its domain (40_convert.md R94). -/
def postAudio (len : Nat) (marker : BitVec 2) (gran : Option Nat) (s : State) : State :=
  match gran with
  | some g => postWrite len marker g s
  | none => raise .enc .assertFail 0 s

/-- The encode transaction of ENCFRAME (43_encode.md R167) for the frame of `slots` elements in ENC.FRAMEBUF. `post` is
what the phase does with the compressed frame; with DIAG_EN the final range is asked for first. -/
def encodeFrame (post : Nat → Nat → State → State) (slots : Nat) (s : State) : State :=
  match s.opusEnc.script.encode with
  | [] => s
  | a :: rest =>
    let s1 := opusEncDid
      (.encode (samplesAt .frameBuf s.enc.frameBuf 0 slots) (slots / s.enc.ch.toNat) Config.maxPacket)
      { s.opusEnc.script with encode := rest } s
    match a with
    | .err reason => raise .enc .codecFailure reason s1
    | .ok bytes =>
      if Config.maxPacket < bytes.length then raise .enc .assertFail 0 s1
      else
        let s2 := s1.withEnc { s1.enc with pktBuf := Memory.writeBlock s1.enc.pktBuf 0 bytes }
        if s.params.diagEn then encPend (.range bytes.length slots) s2 else post bytes.length slots s2

/-- The final_range transaction of ENCFRAME (43_encode.md R167, 60_exceptions.md R216). -/
def encodeRange (post : Nat → Nat → State → State) (len slots : Nat) (s : State) : State :=
  match s.opusEnc.script.range with
  | [] => s
  | v :: rest =>
    let s1 := opusEncDid .finalRange { s.opusEnc.script with range := rest } s
    post len slots (s1.withEnc { s1.enc with diag := v, diagV := true })

/-- The granule position of E_TAIL and E_FINAL: `SCALE64(floor(pos / KG), RATE, 48000)` (43_encode.md R171, R172). A KG of
zero, which only an unreachable channel count of zero gives, has no quotient (log 20). -/
def timelineGranule (pos : Nat) (s : State) : Option Nat :=
  if unitKg s.params.unitMode s.enc.ch.toNat = 0 then none
  else scale64 (pos / unitKg s.params.unitMode s.enc.ch.toNat) s.enc.rate.toNat Config.refRate

/-! ### The phases -/

/-- `E_IDLE`: ENC waits for a command (10_state.md R14, 60_exceptions.md R217). -/
def execEIdle (s : State) : Host.Outcome State Fault Refusal := .next s

/-- `E_VALIDATE` (43_encode.md R161). -/
def execEValidate (s : State) : Host.Outcome State Fault Refusal :=
  .next (if rateOk s.enc.rate.toNat then
    encPhaseTo Phase.eOpen (s.withEnc { s.enc with ch := if s.enc.cmdCh = 0 then 1 else s.enc.cmdCh })
  else raise .enc .invalidSampleRate 0 s)

/-- `OPUSENC.construct` (43_encode.md R163). -/
def constructEnc (s : State) : State :=
  match s.opusEnc.script.construct with
  | [] => s
  | a :: rest =>
    let s1 := opusEncDid (.construct s.enc.rate s.enc.ch .audio) { s.opusEnc.script with construct := rest } s
    match a with
    | .err reason => raise .enc .codecFailure reason s1
    | .ok _ =>
      encPend .bitrate (s1.withOpusEnc { s1.opusEnc with inst := some ⟨s.enc.rate, s.enc.ch, none⟩ })

/-- `OPUSENC.set_bitrate(24000)` (43_encode.md R163). -/
def setBitrate (s : State) : State :=
  match s.opusEnc.script.bitrate with
  | [] => s
  | a :: rest =>
    let s1 := opusEncDid (.setBitrate Config.bitrate) { s.opusEnc.script with bitrate := rest } s
    match a with
    | .err reason => raise .enc .codecFailure reason s1
    | .ok _ =>
      encPhaseTo Phase.eLook
        (s1.withOpusEnc { s1.opusEnc with
          inst := s1.opusEnc.inst.map (fun i => { i with bitrate := some Config.bitrate }) })

/-- `E_OPEN` (43_encode.md R163): construct, then set_bitrate. -/
def execEOpen (s : State) : Host.Outcome State Fault Refusal :=
  .next (match s.enc.pend with
    | .bitrate => setBitrate s
    | _ => constructEnc s)

/-- The registers E_LOOK computes from the lookahead (43_encode.md R164). -/
def lookRegs (samples : Nat) (s : State) : State :=
  let slots := samples * unitKs s.params.unitMode s.enc.ch.toNat
  let s1 := s.withEnc { s.enc with
    skip := BitVec.ofNat 16 samples
    skipSl := toU64 slots
    total := toU64 (s.enc.n.toNat + slots) }
  match scale16 samples s.enc.rate.toNat Config.refRate with
  | none => raise .enc .assertFail 0 s1
  | some v => encPhaseTo Phase.eSerial (s1.withEnc { s1.enc with skip48 := BitVec.ofNat 16 v })

/-- `E_LOOK` (43_encode.md R164). -/
def execELook (s : State) : Host.Outcome State Fault Refusal :=
  .next (match s.opusEnc.script.lookahead with
    | [] => s
    | a :: rest =>
      let s1 := opusEncDid .lookahead { s.opusEnc.script with lookahead := rest } s
      match a with
      | .err reason => raise .enc .codecFailure reason s1
      | .ok samples => if 65535 < samples then raise .enc .assertFail 0 s1 else lookRegs samples s1)

/-- One sample of RAND32 (00_scope.md R7): the injected one, or a free value (log 7). -/
def sampleRand (s : State) : BitVec 32 × State :=
  match s.randIn with
  | r :: rest => (r, s.withRandIn rest)
  | [] => (Config.rand32 s.freeCount, s.withFreeCount (s.freeCount + 1))

/-- `E_SERIAL` (43_encode.md R165). -/
def execESerial (s : State) : Host.Outcome State Fault Refusal :=
  .next (let r := sampleRand s
    encPhaseTo Phase.eHead (r.2.withEnc { r.2.enc with serial := r.1 ^^^ s.params.instanceId }))

/-- `E_HEAD` (43_encode.md R168): compose the identification header and post it, END_PAGE, granule 0. -/
def execEHead (s : State) : Host.Outcome State Fault Refusal :=
  .next (postWrite 19 Marker.endPage 0
    (s.withEnc { s.enc with pktBuf := Memory.writeBlock s.enc.pktBuf 0 (idHeader s) }))

/-- `E_TAGS` (43_encode.md R169): compose the comment header and post it, END_PAGE, granule 0. A VENDOR that does not fit
ENC.PKTBUF is outside the spec (10_state.md R18, U12). -/
def execETags (s : State) : Host.Outcome State Fault Refusal :=
  if Config.maxVendor < s.params.vendor.length then .refused .vendorTooLong
  else .next (postWrite (16 + s.params.vendor.length) Marker.endPage 0
    (s.withEnc { s.enc with pktBuf := Memory.writeBlock s.enc.pktBuf 0 (commentHeader s.params.vendor) }))

/-- The registers E_MAIN sets before its loop (43_encode.md R170). A frame size of zero, which only an unreachable rate
or channel count gives, is an internal violation (60_exceptions.md R211, log 20). -/
def mainStart (s : State) : State :=
  let fs := frameSamples s.enc.rate.toNat
  let fsz := fs * s.enc.ch.toNat
  if fsz = 0 then raise .enc .assertFail 0 s
  else s.withEnc { s.enc with
    fs := toU64 fs
    fsz := toU64 fsz
    max := toU64 (s.enc.total.toNat / fsz)
    idx := 0
    pend := .loop }

/-- The loop test of E_MAIN and the frame of one index (43_encode.md R170). -/
def mainLoop (s : State) : State :=
  if s.enc.idx.toNat < s.enc.max.toNat then frameFill (s.enc.idx.toNat * s.enc.fsz.toNat) s.enc.fsz.toNat s
  else encPhaseTo Phase.eTail (s.withEnc { s.enc with pos := toU64 (s.enc.max.toNat * s.enc.fsz.toNat) })

/-- The packet of one index of E_MAIN (43_encode.md R170). -/
def mainPost (len _slots : Nat) (s : State) : State :=
  postAudio len
    (if s.enc.idx.toNat * s.enc.fsz.toNat + s.enc.fsz.toNat = s.enc.total.toNat then Marker.endStream else Marker.normal)
    (scale64 (s.enc.skip.toNat + (s.enc.idx.toNat + 1) * s.enc.fs.toNat) s.enc.rate.toNat Config.refRate) s

/-- `E_MAIN` (43_encode.md R170). -/
def execEMain (s : State) : Host.Outcome State Fault Refusal :=
  .next (match s.enc.pend with
    | .loop => mainLoop s
    | .encode slots => encodeFrame mainPost slots s
    | .range len slots => encodeRange mainPost len slots s
    | _ => mainStart s)

/-- The packet of one fitted duration of E_TAIL (43_encode.md R171): POS moves on before the granule position is
computed. -/
def tailPost (len slots : Nat) (s : State) : State :=
  let s1 := s.withEnc { s.enc with pos := toU64 (s.enc.pos.toNat + slots) }
  postAudio len (if s1.enc.pos = s1.enc.total then Marker.endStream else Marker.normal)
    (timelineGranule s1.enc.pos.toNat s1) s1

/-- The loop test of E_TAIL and the frame of the duration that fits (43_encode.md R171). -/
def tailLoop (s : State) : State :=
  match tailPick s.enc.rate.toNat s.enc.ch.toNat s.enc.pos.toNat s.enc.total.toNat with
  | some d => frameFill s.enc.pos.toNat (d * s.enc.ch.toNat) s
  | none => encPhaseTo Phase.eFinal s

/-- `E_TAIL` (43_encode.md R171). -/
def execETail (s : State) : Host.Outcome State Fault Refusal :=
  .next (match s.enc.pend with
    | .encode slots => encodeFrame tailPost slots s
    | .range len slots => encodeRange tailPost len slots s
    | _ => tailLoop s)

/-- The terminal packet of E_FINAL (43_encode.md R172). -/
def finalPost (len _slots : Nat) (s : State) : State :=
  postAudio len Marker.endStream (timelineGranule s.enc.total.toNat s) s

/-- The test of E_FINAL and its zero-padded frame (43_encode.md R172). -/
def finalStart (s : State) : State :=
  if s.enc.pos.toNat < s.enc.total.toNat then
    frameFill s.enc.pos.toNat (smallestDuration s.enc.rate.toNat * s.enc.ch.toNat) s
  else completeEnc s

/-- `E_FINAL` (43_encode.md R172). -/
def execEFinal (s : State) : Host.Outcome State Fault Refusal :=
  .next (match s.enc.pend with
    | .encode slots => encodeFrame finalPost slots s
    | .range len slots => encodeRange finalPost len slots s
    | _ => finalStart s)

/-- `E_DONE` (43_encode.md R173): no codec instance, STATUS reads DONE; ENC rests here. -/
def execEDone (s : State) : Host.Outcome State Fault Refusal := .next (completeEnc s)

/-- `E_ERROR` (60_exceptions.md R205, R206): ENC rests until the next command or reset. -/
def execEError (s : State) : Host.Outcome State Fault Refusal := .next s

end Sys2Proof.Machine
end

