-- ==== Sys2Proof/Machine/EndMarks.lean ====
section
/-! DEFINITION. The write_packet transaction with each end marker (30_encoding.md R72, 43_encode.md R166). -/

namespace Sys2Proof.Machine

/-- The length and granule position of the posted write descriptor; none posted is an empty packet at granule 0. -/
def writeDesc (s : State) : Nat × BitVec 64 :=
  match s.enc.pend with
  | .write len _ gran => (len, gran)
  | _ => (0, 0)

/-- The packet that ENC hands over: `ENC.PKTBUF[0 .. len)`, the serial, the marker and the granule position. -/
def postedPacket (marker : BitVec 2) (s : State) : Packet where
  bytes := bytesAt .pktBuf s.enc.pktBuf 0 (writeDesc s).1
  serial := s.enc.serial
  marker := marker
  gran := (writeDesc s).2

/-- What the phase does after its packet has been written: the next phase (43_encode.md R168, R169), the next index
(R170), the next loop test (R171), the end of the timeline (R172). -/
def afterWrite (s : State) : State :=
  match s.enc.phase.toNat with
  | 5 => encPhaseTo Phase.eTags s
  | 6 => encPhaseTo Phase.eMain s
  | 7 => encPend .loop (s.withEnc { s.enc with idx := toU64 (s.enc.idx.toNat + 1) })
  | 9 => completeEnc (s.withEnc { s.enc with pos := s.enc.total })
  | _ => encPend .start s

/-- `EMIT(len, marker, g)` (43_encode.md R166) for the posted descriptor. Without an answer ENC waits. -/
def emit (marker : BitVec 2) (s : State) : State :=
  match s.oggWr.script with
  | [] => s
  | .err reason :: rest =>
    raise .enc .ioFailure reason
      (s.withOggWr { s.oggWr with script := rest, sent := s.oggWr.sent ++ [postedPacket marker s] })
  | .ok _ :: rest =>
    let s1 := s.withOggWr { script := rest, sent := s.oggWr.sent ++ [postedPacket marker s],
                            accepted := s.oggWr.accepted ++ [postedPacket marker s] }
    afterWrite (if marker = Marker.endStream then s1.withEnc { s1.enc with eos := true } else s1)

/-- `NORMAL`: an audio packet that is not the stream's last (30_encoding.md R72). -/
def execNormal (s : State) : Host.Outcome State Fault Refusal := .next (emit Marker.normal s)

/-- `END_PAGE`: a header packet (30_encoding.md R72). -/
def execEndPage (s : State) : Host.Outcome State Fault Refusal := .next (emit Marker.endPage s)

/-- `END_STREAM`: the stream's last packet (30_encoding.md R72); ENC.EOS is set (10_state.md R17). -/
def execEndStream (s : State) : Host.Outcome State Fault Refusal := .next (emit Marker.endStream s)

end Sys2Proof.Machine
end

