-- ==== Sys2Proof/Machine/Errors.lean ====
section
/-! DEFINITION. The error codes as operations: `raise` of each kind in a pipeline (60_exceptions.md R200, R202, R203). -/

namespace Sys2Proof.Machine

/-- Error code 0, "no error recorded" (60_exceptions.md R200): ERR and ERRINFO are cleared, as at a command's acceptance
(10_state.md R31), and nothing else changes but the posted code (log 19). -/
def execErrNone (p : Pipe) (s : State) : Host.Outcome State Fault Refusal :=
  .next (match p with
    | .enc => s.withEnc { s.enc with err := 0, errInfo := 0, pend := .start }
    | .dec => s.withDec { s.dec with err := 0, errInfo := 0, pend := .start })

/-- `raise MalformedAudio(0)`. -/
def execMalformedAudio (p : Pipe) (s : State) : Host.Outcome State Fault Refusal :=
  .next (raise p .malformedAudio 0 s)

/-- `raise InvalidSampleRate(0)`. -/
def execInvalidSampleRate (p : Pipe) (s : State) : Host.Outcome State Fault Refusal :=
  .next (raise p .invalidSampleRate 0 s)

/-- `raise CodecFailure(reason)`. -/
def execCodecFailure (p : Pipe) (info : BitVec 32) (s : State) : Host.Outcome State Fault Refusal :=
  .next (raise p .codecFailure info s)

/-- `raise IOFailure(reason)`. -/
def execIoFailure (p : Pipe) (info : BitVec 32) (s : State) : Host.Outcome State Fault Refusal :=
  .next (raise p .ioFailure info s)

/-- `raise AssertFail(0)`. -/
def execAssertFail (p : Pipe) (s : State) : Host.Outcome State Fault Refusal := .next (raise p .assertFail 0 s)

/-- An illegal command word (30_encoding.md R62): `raise IllegalCommand(0)`, but a word written to a BUSY pipeline is
dropped whatever it is (R63). -/
def execIllegalCommand (p : Pipe) (s : State) : Host.Outcome State Fault Refusal :=
  if status p s = .busy then .next s else .next (raise p .illegalCommand 0 s)

end Sys2Proof.Machine
end

