-- ==== Sys2Proof/Machine/Dispatch.lean ====
section
/-! DEFINITION. One arm per row of the opcode table: each calls its meaning. -/

namespace Sys2Proof.Machine

def exec (i : Instr) (s : State) : Host.Outcome State Fault Refusal :=
  match i with
  | .encode ch rate => Sys2Proof.Machine.execEncode ch rate s
  | .decode rate => Sys2Proof.Machine.execDecode rate s
  | .scale16 value src dst => Sys2Proof.Machine.execScale16 value src dst s
  | .scale64 value src dst => Sys2Proof.Machine.execScale64 value src dst s
  | .valrate value => Sys2Proof.Machine.execValrate value s
  | .convReserved => Sys2Proof.Machine.execConvReserved s
  | .eIdle => Sys2Proof.Machine.execEIdle s
  | .eValidate => Sys2Proof.Machine.execEValidate s
  | .eOpen => Sys2Proof.Machine.execEOpen s
  | .eLook => Sys2Proof.Machine.execELook s
  | .eSerial => Sys2Proof.Machine.execESerial s
  | .eHead => Sys2Proof.Machine.execEHead s
  | .eTags => Sys2Proof.Machine.execETags s
  | .eMain => Sys2Proof.Machine.execEMain s
  | .eTail => Sys2Proof.Machine.execETail s
  | .eFinal => Sys2Proof.Machine.execEFinal s
  | .eDone => Sys2Proof.Machine.execEDone s
  | .eError => Sys2Proof.Machine.execEError s
  | .dIdle => Sys2Proof.Machine.execDIdle s
  | .dHead => Sys2Proof.Machine.execDHead s
  | .dOpen => Sys2Proof.Machine.execDOpen s
  | .dTags => Sys2Proof.Machine.execDTags s
  | .dFrame => Sys2Proof.Machine.execDFrame s
  | .dDone => Sys2Proof.Machine.execDDone s
  | .dError => Sys2Proof.Machine.execDError s
  | .normal => Sys2Proof.Machine.execNormal s
  | .endPage => Sys2Proof.Machine.execEndPage s
  | .endStream => Sys2Proof.Machine.execEndStream s
  | .errNone p => Sys2Proof.Machine.execErrNone p s
  | .malformedAudio p => Sys2Proof.Machine.execMalformedAudio p s
  | .invalidSampleRate p => Sys2Proof.Machine.execInvalidSampleRate p s
  | .codecFailure p info => Sys2Proof.Machine.execCodecFailure p info s
  | .ioFailure p info => Sys2Proof.Machine.execIoFailure p info s
  | .assertFail p => Sys2Proof.Machine.execAssertFail p s
  | .illegalCommand p => Sys2Proof.Machine.execIllegalCommand p s
  | .opusHead ch preSkip _ gain _ _ => Sys2Proof.Machine.execOpusHead ch preSkip gain s
  | .opusTags _ _ => Sys2Proof.Machine.execOpusTags s

end Sys2Proof.Machine
end

