-- ==== Sys2Proof/Machine/HostOps.lean ====
section
/-! DEFINITION. The host's operations that carry no word of the opcode table (44_sequencing_and_access.md R182 (a),
30_encoding.md R76). -/

namespace Sys2Proof.Machine

/-- `LOAD PCM_IN` (30_encoding.md R76). While ENC is BUSY the indices written are noted, and a later read of one of them
by this invocation is a free value (20_memory.md R50, 70_reset_and_hazards.md R236, U10, log 10). -/
def loadPcm (base : Nat) (elems : List Sample) (s : State) : State :=
  let s1 := s.withPcmIn (Memory.writeBlock s.pcmIn base elems)
  if status .enc s = .busy then
    (s1.withEnc { s1.enc with raced := List.range' base elems.length ++ s1.enc.raced }).withFreeCount (s1.freeCount + 1)
  else s1

/-- RESET (70_reset_and_hazards.md R230, R231; 10_state.md R30): every register of both pipelines at its reset value, no
codec instance, PCM_OUT empty. What stands behind the ports and the host's own data stay (log 21). -/
def resetOp (s : State) : State :=
  ((((s.withEnc Enc.reset).withDec Dec.reset).withPcmOut []).withOpusEnc { s.opusEnc with inst := none }).withOpusDec
    { s.opusDec with inst := none }

/-- The host's read of one element of PCM_OUT, at any time (20_memory.md R40; 70_reset_and_hazards.md R240: a read while DEC
is BUSY sees a partial result). The space has as many elements as have been appended, and there is no other (log 34). -/
def readPcmOut (i : Nat) (s : State) : Host.Outcome State Fault Refusal :=
  match Memory.read s.pcmOut i with
  | some v => .next (s.withReadOut (v.setWidth 64))
  | none => .fault (.noSuchOutput i)

/-- One host operation. A word of the opcode table (a command, a CONV operation) goes through the decoder instead and
changes nothing here. The reads of STATUS that WAIT expands to (30_encoding.md R76) are not recorded in `readOut`, which holds what
READ and the read of PCM_OUT return (the model's choice, log 12, log 32). -/
def hostOp (op : HostOp) (s : State) : Host.Outcome State Fault Refusal :=
  match op with
  | .encCmd _ => .next s
  | .decCmd _ => .next s
  | .conv _ _ _ _ => .next s
  | .setN v => .next (if status .enc s = .busy then s else s.withEnc { s.enc with n := v })
  | .loadPcm base elems => .next (loadPcm base elems s)
  | .attachOpusEnc x => .next (s.withOpusEnc { s.opusEnc with script := x, sent := [] })
  | .attachOpusDec x => .next (s.withOpusDec { s.opusDec with script := x, sent := [] })
  | .attachOggRd x => .next (s.withOggRd { script := x, reads := 0 })
  | .attachOggWr x => .next (s.withOggWr { script := x, sent := [], accepted := [] })
  | .supplyRand v => .next (s.withRandIn (s.randIn ++ [v]))
  | .read r => .next (s.withReadOut (readReg s r))
  | .readPcmOut i => readPcmOut i s
  | .wait p => .next (if doneOut p s then s else s.withInputs (.wait p :: s.inputs))
  | .reset => .next (resetOp s)

end Sys2Proof.Machine
end

