-- ==== Sys2Proof/Machine/Fetch.lean ====
section
/-! DEFINITION. Where the next action of the machine comes from: the agent that moves, and the word that stands at its
place (10_state.md R14, 30_encoding.md R60, R65). -/

namespace Sys2Proof.Machine

/-- The agent that takes this step, and the state with the schedule moved on. An empty schedule goes round: host, ENC,
DEC (log 2). -/
def nextAgent (s : State) : Agent × State :=
  match s.sched with
  | [] => (.host, s.withSched [.enc, .dec])
  | a :: rest => (a, s.withSched rest)

/-- The word that stands at ENC: the end marker of a posted packet, a posted error code, else the phase code. -/
def encCode (s : State) : Code :=
  match s.enc.pend with
  | .write _ m _ => .endMark m
  | .error c info => .errCode .enc c info
  | _ => .encPhase s.enc.phase

/-- The word that stands at DEC: a packet to be interpreted, a posted error code, else the phase code. -/
def decCode (s : State) : Code :=
  match s.dec.pend with
  | .head => .headPacket (pktBytes s)
  | .tags => .tagsPacket (pktBytes s)
  | .error c info => .errCode .dec c info
  | _ => .decPhase s.dec.phase

/-- The word of the opcode table that a host operation writes, if it is one. -/
def hostCode : HostOp → Option Code
  | .encCmd w => some (.encCmd w)
  | .decCmd w => some (.decCmd w)
  | .conv sel value src dst => some (.conv sel value src dst)
  | _ => none

/-- What a step has to do, with the state it does it in. -/
inductive Fetched where
  | code (c : Code) (s : State)
  | op (o : HostOp) (s : State)
  | idle (s : State)
deriving DecidableEq, Repr

/-- The next action: the moving agent's word, a host operation, or nothing pending at the host. -/
def fetch (s : State) : Fetched :=
  match nextAgent s with
  | (.host, s1) =>
    match s1.inputs with
    | [] => .idle s1
    | o :: rest =>
      match hostCode o with
      | some c => .code c (s1.withInputs rest)
      | none => .op o (s1.withInputs rest)
  | (.enc, s1) => .code (encCode s1) s1
  | (.dec, s1) => .code (decCode s1) s1

/-- Put a word where the next step takes it. -/
def placeCode (c : Code) (s : State) : State :=
  match c with
  | .encCmd w => (s.withInputs (.encCmd w :: s.inputs)).withSched (.host :: s.sched)
  | .decCmd w => (s.withInputs (.decCmd w :: s.inputs)).withSched (.host :: s.sched)
  | .conv sel value src dst => (s.withInputs (.conv sel value src dst :: s.inputs)).withSched (.host :: s.sched)
  | .encPhase c =>
    (s.withEnc { s.enc with
      phase := c
      pend := match s.enc.pend with
        | .write _ _ _ => .start
        | .error _ _ => .start
        | p => p }).withSched (.enc :: s.sched)
  | .decPhase c =>
    (s.withDec { s.dec with
      phase := c
      pend := match s.dec.pend with
        | .head => .start
        | .tags => .start
        | .error _ _ => .start
        | p => p }).withSched (.dec :: s.sched)
  | .endMark m =>
    (s.withEnc { s.enc with
      pend := match s.enc.pend with
        | .write len _ gran => .write len m gran
        | _ => .write 0 m 0 }).withSched (.enc :: s.sched)
  | .errCode .enc c info => (s.withEnc { s.enc with pend := .error c info }).withSched (.enc :: s.sched)
  | .errCode .dec c info => (s.withDec { s.dec with pend := .error c info }).withSched (.dec :: s.sched)
  | .headPacket b =>
    (s.withDec { s.dec with pktIn := Memory.writeBlock [] 0 b, pktLen := toU32 b.length, pend := .head }).withSched
      (.dec :: s.sched)
  | .tagsPacket b =>
    (s.withDec { s.dec with pktIn := Memory.writeBlock [] 0 b, pktLen := toU32 b.length, pend := .tags }).withSched
      (.dec :: s.sched)

end Sys2Proof.Machine
end

