-- ==== Sys2Proof/Machine/Step.lean ====
section
/-! DEFINITION. One step of the machine: one phase rule, one port transaction or one host operation
(70_reset_and_hazards.md R242). -/

namespace Sys2Proof.Machine

/-- Run what a step has fetched. -/
def run : Fetched → Host.Outcome State Fault Refusal
  | .idle s => .next s
  | .op o s => hostOp o s
  | .code c s =>
    match decode c with
    | .instr i => exec i s
    | .reservedEncPhase c => .fault (.reservedEncPhase c)
    | .reservedDecPhase c => .fault (.reservedDecPhase c)
    | .reservedEndMark => .fault .reservedEndMark
    | .reservedErrCode => .fault .reservedErrCode

/-- One step. -/
def step (s : State) : Host.Outcome State Fault Refusal := run (fetch s)

/-- The state with a word of the opcode table where the next step takes it (log 1, log 18). -/
def State.withFetchWord (s : State) (nbits w : Nat) : State :=
  match tableCode nbits w with
  | some c => placeCode c s
  | none => s

end Sys2Proof.Machine
end

