-- ==== Sys2Proof/Safety.lean ====
section
/-! DEFINITION. What a sound state of OOFD is, in the terms the statements use: the invariants that every step keeps, and
which instructions belong to which pipeline. -/

namespace Sys2Proof.Machine

/-! ### Sound data -/

/-- A posted ENC action with legal codes and a length the packet buffer holds (30_encoding.md R72, 60_exceptions.md R200,
10_state.md R18). -/
def EncPend.Legal : EncPend → Prop
  | .write len m _ => len ≤ 4000 ∧ m ≠ 3
  | .range len _ => len ≤ 4000
  | .error c _ => c ≠ 7
  | _ => True

/-- A posted DEC action with a legal code (60_exceptions.md R200). -/
def DecPend.Legal : DecPend → Prop
  | .error c _ => c ≠ 7
  | _ => True

/-- Sound data: every space in canonical form and within its capacity (10_state.md R18), every code legal
(30_encoding.md R64, R74; 60_exceptions.md R200), the channel counts within `MAX_CH` (00_scope.md R6), and neither a codec
instance (10_state.md R19 (a)) nor a pending action outside an invocation. -/
structure Inv (s : State) : Prop where
  pcmIn_wf : Memory.wf s.pcmIn = true
  pcmOut_wf : Memory.wf s.pcmOut = true
  frameBuf_wf : Memory.wf s.enc.frameBuf = true
  pktBuf_wf : Memory.wf s.enc.pktBuf = true
  pktIn_wf : Memory.wf s.dec.pktIn = true
  scratch_wf : Memory.wf s.dec.scratch = true
  frameBuf_cap : ∀ e ∈ s.enc.frameBuf, e.1 < 1920
  pktBuf_cap : ∀ e ∈ s.enc.pktBuf, e.1 < 4000
  scratch_cap : ∀ e ∈ s.dec.scratch, e.1 < 11520
  encPhase_legal : s.enc.phase.toNat ≤ 10 ∨ s.enc.phase.toNat = 15
  decPhase_legal : s.dec.phase.toNat ≤ 5 ∨ s.dec.phase.toNat = 15
  encErr_legal : s.enc.err ≠ 7
  decErr_legal : s.dec.err ≠ 7
  encPend_legal : s.enc.pend.Legal
  decPend_legal : s.dec.pend.Legal
  cmdCh_le : s.enc.cmdCh.toNat ≤ 2
  encCh_le : s.enc.ch.toNat ≤ 2
  decCh_le : s.dec.ch.toNat ≤ 2
  encInst_released : status .enc s ≠ .busy → s.opusEnc.inst = none
  decInst_released : status .dec s ≠ .busy → s.opusDec.inst = none
  encRest : status .enc s ≠ .busy → s.enc.pend = .start
  decRest : status .dec s ≠ .busy → s.dec.pend = .start

/-! ### The encoder's timeline -/

/-- E_MAIN after its registers are set (43_encode.md R170): the frame sizes are those of the rate, MAX counts the whole
frames, and an index whose frame is under way lies below MAX. -/
def MainSound (e : Enc) : Prop :=
  e.fs.toNat = e.rate.toNat / 50 ∧ e.fsz.toNat = e.fs.toNat * e.ch.toNat ∧
    e.max.toNat = e.total.toNat / e.fsz.toNat ∧ e.idx.toNat ≤ e.max.toNat

/-- What ENC's registers say of the timeline in each phase (43_encode.md R161 to R172): a supported rate and one or two
channels once validated; `TOTAL = N + SKIPSL` once computed, where the sum fits 64 bits; E_MAIN's counters; in E_TAIL and
E_FINAL a position within the timeline, with less than the smallest duration left in E_FINAL; and a frame under way that
fits the timeline and ENC.FRAMEBUF. -/
structure TimelineInv (e : Enc) : Prop where
  validated : 2 ≤ e.phase.toNat → e.phase.toNat ≤ 9 → rateOk e.rate.toNat = true ∧ (e.ch = 1 ∨ e.ch = 2)
  cmdCh_le : e.cmdCh.toNat ≤ 2
  total_eq : 4 ≤ e.phase.toNat → e.phase.toNat ≤ 9 → e.n.toNat + e.skipSl.toNat < 2 ^ 64 →
    e.total.toNat = e.n.toNat + e.skipSl.toNat
  main_loop : e.phase.toNat = 7 → e.pend = .loop → MainSound e
  main_encode : e.phase.toNat = 7 → ∀ slots, e.pend = .encode slots →
    MainSound e ∧ e.idx.toNat < e.max.toNat ∧ slots = e.fsz.toNat
  main_range : e.phase.toNat = 7 → ∀ len slots, e.pend = .range len slots → MainSound e ∧ e.idx.toNat < e.max.toNat
  main_write : e.phase.toNat = 7 → ∀ len m g, e.pend = .write len m g → MainSound e ∧ e.idx.toNat < e.max.toNat
  tail_pos : e.phase.toNat = 8 → e.pos.toNat ≤ e.total.toNat ∧
    e.total.toNat - e.pos.toNat < e.rate.toNat / 50 * e.ch.toNat
  tail_encode : e.phase.toNat = 8 → ∀ slots, e.pend = .encode slots → e.pos.toNat + slots ≤ e.total.toNat ∧ slots ≤ 1920
  tail_range : e.phase.toNat = 8 → ∀ len slots, e.pend = .range len slots → e.pos.toNat + slots ≤ e.total.toNat
  final_pos : e.phase.toNat = 9 → e.pos.toNat ≤ e.total.toNat ∧
    e.total.toNat - e.pos.toNat < e.rate.toNat / 400 * e.ch.toNat

/-! ### The decoder's output -/

/-- What DEC's output is at any moment of an invocation (42_decode.md R142 (a), 20_memory.md R40, R42 (c)): PCM_OUT holds
exactly the elements below OUTLEN, and OUTLEN is a whole number of sample frames, zero until the header has been
taken. -/
structure OutputInv (s : State) : Prop where
  extent : ∀ a, (Memory.read s.pcmOut a).isSome = true ↔ a < s.dec.outLen.toNat
  head_empty : s.dec.phase.toNat = 1 ∨ s.dec.pend = .head → s.dec.outLen = 0
  whole : s.dec.outLen.toNat % s.dec.ch.toNat = 0

/-! ### Entering the error state -/

/-- What `raise` leaves in ENC (60_exceptions.md R203): the code and the information recorded, PHASE = E_ERROR, no codec
instance, and every other field as it was. -/
def encRaised (code : BitVec 3) (info : BitVec 32) (s : State) : State :=
  { s with
    enc := { s.enc with err := code, errInfo := info, phase := 15, pend := .start }
    opusEnc := { s.opusEnc with inst := none } }

/-- What `raise` leaves in DEC (60_exceptions.md R203). -/
def decRaised (code : BitVec 3) (info : BitVec 32) (s : State) : State :=
  { s with
    dec := { s.dec with err := code, errInfo := info, phase := 15, pend := .start }
    opusDec := { s.opusDec with inst := none } }

/-! ### Packets as the spec writes them -/

/-- The 19 bytes of 30_encoding.md R67, from the register values. -/
def idHeaderSpec (ch : BitVec 8) (skip48 rate : Nat) : List Byte :=
  [0x4F, 0x70, 0x75, 0x73, 0x48, 0x65, 0x61, 0x64, 1, ch, BitVec.ofNat 8 skip48, BitVec.ofNat 8 (skip48 / 256),
    BitVec.ofNat 8 rate, BitVec.ofNat 8 (rate / 256), BitVec.ofNat 8 (rate / 65536), BitVec.ofNat 8 (rate / 16777216),
    0, 0, 0]

/-- The bytes of 30_encoding.md R70, from the vendor string. -/
def commentHeaderSpec (vendor : List Byte) : List Byte :=
  [0x4F, 0x70, 0x75, 0x73, 0x54, 0x61, 0x67, 0x73, BitVec.ofNat 8 vendor.length, BitVec.ofNat 8 (vendor.length / 256),
    BitVec.ofNat 8 (vendor.length / 65536), BitVec.ofNat 8 (vendor.length / 16777216)] ++ vendor ++ [0, 0, 0, 0]

/-- A packet that passes the four checks of 42_decode.md R132. -/
def IdHeaderAccepted (b : List Byte) : Prop :=
  19 ≤ b.length ∧ b.take 8 = [0x4F, 0x70, 0x75, 0x73, 0x48, 0x65, 0x61, 0x64] ∧ b.getD 8 0 = 1 ∧
    (b.getD 9 0 = 1 ∨ b.getD 9 0 = 2)

/-- A packet that passes the checks of 42_decode.md R136. -/
def CommentHeaderAccepted (b : List Byte) : Prop :=
  12 ≤ b.length ∧ b.take 8 = [0x4F, 0x70, 0x75, 0x73, 0x54, 0x61, 0x67, 0x73]

/-- A buffer that holds a block at its start and is otherwise another buffer. -/
def Overwrites {w : Nat} (m' : Memory w) (block : List (BitVec w)) (m : Memory w) : Prop :=
  ∀ a, Memory.read m' a = if a < block.length then block[a]? else Memory.read m a

/-! ### The round trip of a position -/

/-- The bound of 40_convert.md R98 for a pair of supported rates. -/
def roundTripBound (a b : Nat) : Nat :=
  match a, b with
  | 8000, 12000 => 1
  | 12000, 8000 => 1
  | 12000, 16000 => 1
  | 16000, 8000 => 1
  | 16000, 12000 => 1
  | 16000, 24000 => 1
  | 24000, 8000 => 2
  | 24000, 12000 => 1
  | 24000, 16000 => 1
  | 48000, 8000 => 5
  | 48000, 12000 => 3
  | 48000, 16000 => 2
  | 48000, 24000 => 1
  | _, _ => 0

/-! ### Which pipeline an instruction belongs to -/

/-- The pipeline an instruction belongs to: the phases, the command and the end markers of ENC, the phases, the command and
the packets of DEC, and each error code where it stands. CONV operations belong to neither. -/
def pipeOf : Instr → Option Pipe
  | .encode _ _ => some .enc
  | .decode _ => some .dec
  | .scale16 _ _ _ => none
  | .scale64 _ _ _ => none
  | .valrate _ => none
  | .convReserved => none
  | .eIdle => some .enc
  | .eValidate => some .enc
  | .eOpen => some .enc
  | .eLook => some .enc
  | .eSerial => some .enc
  | .eHead => some .enc
  | .eTags => some .enc
  | .eMain => some .enc
  | .eTail => some .enc
  | .eFinal => some .enc
  | .eDone => some .enc
  | .eError => some .enc
  | .dIdle => some .dec
  | .dHead => some .dec
  | .dOpen => some .dec
  | .dTags => some .dec
  | .dFrame => some .dec
  | .dDone => some .dec
  | .dError => some .dec
  | .normal => some .enc
  | .endPage => some .enc
  | .endStream => some .enc
  | .errNone p => some p
  | .malformedAudio p => some p
  | .invalidSampleRate p => some p
  | .codecFailure p _ => some p
  | .ioFailure p _ => some p
  | .assertFail p => some p
  | .illegalCommand p => some p
  | .opusHead _ _ _ _ _ _ => some .dec
  | .opusTags _ _ => some .dec

end Sys2Proof.Machine
end

