-- ==== Sys2Proof/Certificates/Slice0/Obligations.lean ====
section
/-! DEFINITION. The statements about OOFD, from the numbered rules of spec/. -/

open Sys2Proof Sys2Proof.Machine

/-! ### Encodings -/

/-- The decoder gives back every well-formed instruction from its encoded form (30_encoding.md sections 1 to 6,
60_exceptions.md section 1). -/
def Obligations.DecodeGivesBackEveryEncodedInstruction : Prop :=
  ∀ i : Instr, WellFormed i = true → decode (encode i) = .instr i

/-- No bit of a command word or of a header packet is lost: what decodes to ENCODE, DECODE, OPUSHEAD or OPUSTAGS is the
encoded form of that instruction (30_encoding.md sections 1, 4, 5). -/
def Obligations.CommandsAndPacketsDecodeWithoutLoss : Prop :=
  (∀ w ch rate, decode (.encCmd w) = .instr (.encode ch rate) → encode (.encode ch rate) = .encCmd w) ∧
  (∀ w rate, decode (.decCmd w) = .instr (.decode rate) → encode (.decode rate) = .decCmd w) ∧
  (∀ b ch ps r g f x, decode (.headPacket b) = .instr (.opusHead ch ps r g f x) →
    encode (.opusHead ch ps r g f x) = .headPacket b) ∧
  (∀ b l body, decode (.tagsPacket b) = .instr (.opusTags l body) → encode (.opusTags l body) = .tagsPacket b)

/-- The words that the spec writes out decode to the operations it names (43_encode.md R160, 42_decode.md R130, R133,
30_encoding.md sections 2, 3 and 6). -/
def Obligations.WordsOfTheSpecDecode : Prop :=
  decode (.encCmd 0x00000000BB800101) = .instr (.encode 1 48000) ∧
  decode (.encCmd 0x000000003E800201) = .instr (.encode 2 16000) ∧
  decode (.decCmd 0x00000000BB800002) = .instr (.decode 48000) ∧
  decode (.conv 2 16000 0 0) = .instr (.valrate 16000) ∧
  decode (.encPhase 7) = .instr .eMain ∧
  decode (.decPhase 4) = .instr .dFrame ∧
  decode (.endMark 2) = .instr .endStream ∧
  decode (.errCode .dec 3 5) = .instr (.codecFailure .dec 5) ∧
  decode (.headPacket [0x4F, 0x70, 0x75, 0x73, 0x48, 0x65, 0x61, 0x64, 0x01, 0x02, 0x38, 0x01, 0x80, 0x3E, 0x00, 0x00,
    0x00, 0xFF, 0x00]) = .instr (.opusHead 2 312 16000 0xFF00 0 []) ∧
  decode (.tagsPacket [0x4F, 0x70, 0x75, 0x73, 0x54, 0x61, 0x67, 0x73, 0x04, 0x00, 0x00, 0x00, 0x6F, 0x6F, 0x66, 0x64,
    0x00, 0x00, 0x00, 0x00]) = .instr (.opusTags 4 [0x6F, 0x6F, 0x66, 0x64, 0, 0, 0, 0])

/-- The phase codes, end markers and error codes that the spec reserves are refused by the decoder, and no other
(30_encoding.md R64, R72, R74; 60_exceptions.md R200): a code decodes exactly when it is not one of 11 to 14 (ENC), 6 to
14 (DEC), 3 (end marker), 7 (error). -/
def Obligations.ExactlyTheReservedCodesAreRefused : Prop :=
  (∀ c : BitVec 4, (∃ i, decode (.encPhase c) = .instr i) ↔ (c.toNat ≤ 10 ∨ c.toNat = 15)) ∧
  (∀ c : BitVec 4, (∃ i, decode (.decPhase c) = .instr i) ↔ (c.toNat ≤ 5 ∨ c.toNat = 15)) ∧
  (∀ m : BitVec 2, (∃ i, decode (.endMark m) = .instr i) ↔ m.toNat ≤ 2) ∧
  (∀ p info, ∀ c : BitVec 3, (∃ i, decode (.errCode p c info) = .instr i) ↔ c.toNat ≤ 6)

/-- The identification header ENC composes decodes to OPUSHEAD with ENC's channel byte, pre-skip and rate, gain 0 and mapping
family 0 (30_encoding.md R66, R67). Whether DEC then takes it is the check of the channel byte (R68). -/
def Obligations.ComposedIdHeaderDecodes : Prop :=
  ∀ s : State, decode (.headPacket (idHeader s)) = .instr (.opusHead s.enc.ch s.enc.skip48 s.enc.rate 0 0 [])

/-! ### The step -/

/-- A step runs the instruction that the moving agent's word decodes to. For the host it is the word its first pending
operation writes, for ENC and DEC the word that stands at the pipeline; the schedule moves on (and the host's operation
is consumed) before the instruction runs. With an empty schedule the host moves and ENC and DEC follow. A host operation that
writes no word runs as `hostOp`, a host with nothing pending changes only the schedule, a host's word always decodes, and a
reserved code at a pipeline is a fault of the model (U15, log 26). The schedule and the queue are the model's choice (log 1,
log 2). -/
def Obligations.StepRunsTheDecodedInstruction : Prop :=
  (∀ (s : State) (i : Instr),
    (∀ rest, s.sched = .enc :: rest → decode (encCode s) = .instr i → step s = exec i { s with sched := rest }) ∧
    (∀ rest, s.sched = .dec :: rest → decode (decCode s) = .instr i → step s = exec i { s with sched := rest }) ∧
    (∀ rest op ops c, s.sched = .host :: rest → s.inputs = op :: ops → hostCode op = some c → decode c = .instr i →
      step s = exec i { s with sched := rest, inputs := ops }) ∧
    (∀ op ops c, s.sched = [] → s.inputs = op :: ops → hostCode op = some c → decode c = .instr i →
      step s = exec i { s with sched := [.enc, .dec], inputs := ops })) ∧
  (∀ op c, hostCode op = some c → ∃ i, decode c = .instr i) ∧
  (∀ (s : State) (op : HostOp) (ops : List HostOp), s.inputs = op :: ops → hostCode op = none →
    (∀ rest, s.sched = .host :: rest → step s = hostOp op { s with sched := rest, inputs := ops }) ∧
    (s.sched = [] → step s = hostOp op { s with sched := [.enc, .dec], inputs := ops })) ∧
  (∀ s : State, s.inputs = [] →
    (∀ rest, s.sched = .host :: rest → step s = .next { s with sched := rest }) ∧
    (s.sched = [] → step s = .next { s with sched := [.enc, .dec] })) ∧
  (∀ (s : State) (rest : List Agent), s.sched = .enc :: rest →
    (∀ c, decode (encCode s) = .reservedEncPhase c → step s = .fault (.reservedEncPhase c)) ∧
    (decode (encCode s) = .reservedEndMark → step s = .fault .reservedEndMark) ∧
    (decode (encCode s) = .reservedErrCode → step s = .fault .reservedErrCode)) ∧
  (∀ (s : State) (rest : List Agent), s.sched = .dec :: rest →
    (∀ c, decode (decCode s) = .reservedDecPhase c → step s = .fault (.reservedDecPhase c)) ∧
    (decode (decCode s) = .reservedErrCode → step s = .fault .reservedErrCode))

/-- A word put where the machine fetches is the word the next step runs: fetching after `placeCode` gives that word. A
packet must have a length that DEC.PKT.LEN holds. -/
def Obligations.PlacedWordIsFetchedNext : Prop :=
  ∀ (c : Code) (s : State),
    (∀ b, c = .headPacket b ∨ c = .tagsPacket b → b.length < 4294967296) →
    ∃ t, fetch (placeCode c s) = .code c t

/-! ### Commands -/

/-- Command acceptance (30_encoding.md R63, 10_state.md R31). A legal command written while the pipeline is not BUSY
initialises the invocation, keeps its operands and enters the first phase, everything else unchanged; any command word, legal
or not, written while it is BUSY changes nothing (70_reset_and_hazards.md R237). `raced` and `pend` are the model's own
fields (log 3, log 10). That acceptance keeps DIAG, the working registers and the buffers, which U19 lets be any value, is the
model's choice (log 33). -/
def Obligations.CommandIsAcceptedUnlessBusy : Prop :=
  ∀ (s : State) (ch : BitVec 8) (rate : BitVec 32) (w : BitVec 64),
    (status .enc s ≠ .busy → ch.toNat ≤ 2 →
      exec (.encode ch rate) s = .next { s with
        enc := { s.enc with err := 0, errInfo := 0, diagV := false, eos := false, rate := rate, cmdCh := ch,
                            raced := [], phase := 1, pend := .start } }) ∧
    (status .dec s ≠ .busy →
      exec (.decode rate) s = .next { s with
        dec := { s.dec with err := 0, errInfo := 0, diagV := false, outLen := 0, outCh := 0, tRate := rate, phase := 1,
                            pend := .start }
        pcmOut := [] }) ∧
    (status .enc s = .busy → ∃ i, decode (.encCmd w) = .instr i ∧ exec i s = .next s) ∧
    (status .dec s = .busy → ∃ i, decode (.decCmd w) = .instr i ∧ exec i s = .next s)

/-- Illegal command words (30_encoding.md R62). A word at ENC.CMD is illegal when OP is not 1, RSV is not 0 or CH is above
2, a word at DEC.CMD when OP is not 2, CH is not 0 or RSV is not 0. Written to a pipeline that is not BUSY, an illegal
word raises IllegalCommand(0) and changes nothing else; a legal one is an ENCODE or a DECODE. That nothing else changes, so
that EOS, DIAGV, OUTLEN, OUT_CH and PCM_OUT are kept, is the model's reading (log 29). -/
def Obligations.IllegalCommandWordsRaise : Prop :=
  ∀ (s : State) (w : BitVec 64),
    (status .enc s ≠ .busy →
      (w.toNat % 256 ≠ 1 ∨ w.toNat / 281474976710656 ≠ 0 ∨ 2 < w.toNat / 256 % 256) →
      ∃ i, decode (.encCmd w) = .instr i ∧ exec i s = .next (encRaised 6 0 s)) ∧
    (status .dec s ≠ .busy →
      (w.toNat % 256 ≠ 2 ∨ w.toNat / 281474976710656 ≠ 0 ∨ w.toNat / 256 % 256 ≠ 0) →
      ∃ i, decode (.decCmd w) = .instr i ∧ exec i s = .next (decRaised 6 0 s)) ∧
    (w.toNat % 256 = 1 → w.toNat / 281474976710656 = 0 → w.toNat / 256 % 256 ≤ 2 →
      ∃ ch rate, decode (.encCmd w) = .instr (.encode ch rate) ∧ ch.toNat = w.toNat / 256 % 256 ∧
        rate.toNat = w.toNat / 65536 % 4294967296) ∧
    (w.toNat % 256 = 2 → w.toNat / 281474976710656 = 0 → w.toNat / 256 % 256 = 0 →
      ∃ rate, decode (.decCmd w) = .instr (.decode rate) ∧ rate.toNat = w.toNat / 65536 % 4294967296)

/-! ### CONV -/

/-- SCALE64 (40_convert.md R90, R94): inside the domain RESULT is the floor of value * to / from with OK = 1, outside it
both are 0, and nothing but the port's outputs changes (that the outputs are kept in a field is the model's, log 12). -/
def Obligations.Scale64DrivesTheFloorInsideItsDomain : Prop :=
  ∀ (v : BitVec 64) (src dst : BitVec 32) (s : State),
    (src.toNat ≠ 0 → v.toNat * dst.toNat < 18446744073709551616 →
      ∃ r : BitVec 64, r.toNat = v.toNat * dst.toNat / src.toNat ∧
        exec (.scale64 v src dst) s = .next { s with convOut := ⟨r, true⟩ }) ∧
    (src.toNat = 0 ∨ 18446744073709551616 ≤ v.toNat * dst.toNat →
      exec (.scale64 v src dst) s = .next { s with convOut := ⟨0, false⟩ })

/-- SCALE16 (40_convert.md R91, R94; 30_encoding.md R65): inside the domain, with bits 63:16 of VALUE zero, RESULT is the
floor and OK = 1, else both are 0. -/
def Obligations.Scale16DrivesTheFloorInsideItsDomain : Prop :=
  ∀ (v : BitVec 64) (src dst : BitVec 32) (s : State),
    (v.toNat < 65536 → src.toNat ≠ 0 → v.toNat * dst.toNat / src.toNat ≤ 65535 →
      ∃ r : BitVec 64, r.toNat = v.toNat * dst.toNat / src.toNat ∧
        exec (.scale16 v src dst) s = .next { s with convOut := ⟨r, true⟩ }) ∧
    (65536 ≤ v.toNat ∨ src.toNat = 0 ∨ 65535 < v.toNat * dst.toNat / src.toNat →
      exec (.scale16 v src dst) s = .next { s with convOut := ⟨0, false⟩ })

/-- VALRATE (40_convert.md R92; 30_encoding.md R65): the five supported rates give OK = 1 and the rate, every other value
OK = 0 and 0; and CONV with SEL = 3 gives OK = 0 and 0. -/
def Obligations.ValrateAcceptsExactlyTheFiveRates : Prop :=
  ∀ (v : BitVec 64) (s : State),
    (v.toNat ∈ [8000, 12000, 16000, 24000, 48000] → exec (.valrate v) s = .next { s with convOut := ⟨v, true⟩ }) ∧
    (v.toNat ∉ [8000, 12000, 16000, 24000, 48000] → exec (.valrate v) s = .next { s with convOut := ⟨0, false⟩ }) ∧
    exec .convReserved s = .next { s with convOut := ⟨0, false⟩ }

/-- Laws of the scale identity (40_convert.md R95 (b) to (e)) inside the domain, for SCALE64 and for SCALE16: monotone,
identity for equal rates, zero for zero, additive up to one, and the floor's bounds. -/
def Obligations.ScaleIsMonotoneAndAlmostAdditive : Prop :=
  ∀ scale : Nat → Nat → Nat → Option Nat, scale = scale64 ∨ scale = scale16 →
    ∀ a b x y z src dst : Nat, scale a src dst = some x → scale b src dst = some y →
      (a ≤ b → x ≤ y) ∧ (scale (a + b) src dst = some z → z = x + y ∨ z = x + y + 1) ∧
      (src = dst → x = a) ∧ (a = 0 → x = 0) ∧ x * src ≤ a * dst ∧ a * dst < (x + 1) * src

/-- The round trip of a position through another supported rate loses at most the table's bound and never gains, every
bound of the table is reached, and the four witnesses that the rule names lose all they have (40_convert.md R98). -/
def Obligations.RoundTripLosesAtMostTheTabledBound : Prop :=
  (∀ a ∈ [8000, 12000, 16000, 24000, 48000], ∀ b ∈ [8000, 12000, 16000, 24000, 48000],
    (∀ x y z, scale64 x a b = some y → scale64 y b a = some z → z ≤ x ∧ x ≤ z + roundTripBound a b) ∧
    (∃ x y z, scale64 x a b = some y ∧ scale64 y b a = some z ∧ x = z + roundTripBound a b)) ∧
  ∀ w ∈ [(48000, 8000, 5), (48000, 12000, 3), (48000, 16000, 2), (24000, 8000, 2)],
    scale64 w.2.2 w.1 w.2.1 = some 0 ∧ roundTripBound w.1 w.2.1 = w.2.2

/-! ### ENC: validation, set-up, headers -/

/-- E_VALIDATE (43_encode.md R161): a supported rate sets the channel count, 0 counting as 1, and goes on to E_OPEN; any
other raises InvalidSampleRate with no port transaction. -/
def Obligations.ValidateChecksTheRateAndSetsTheChannels : Prop :=
  ∀ s : State,
    (s.enc.rate.toNat ∈ [8000, 12000, 16000, 24000, 48000] →
      exec .eValidate s = .next { s with
        enc := { s.enc with ch := if s.enc.cmdCh = 0 then 1 else s.enc.cmdCh, phase := 2, pend := .start } }) ∧
    (s.enc.rate.toNat ∉ [8000, 12000, 16000, 24000, 48000] → exec .eValidate s = .next (encRaised 2 0 s))

/-- E_OPEN (43_encode.md R163): construct with the rate, the channels and the audio profile, then set_bitrate(24000), each
taking its answer and nothing else; an Err raises CodecFailure with its reason, both Ok lead to E_LOOK. That the two
transactions are two steps is the model's (log 3). -/
def Obligations.OpenConstructsThenSetsTheBitrate : Prop :=
  ∀ s : State,
    (∀ rest, s.enc.pend = .start → s.opusEnc.script.construct = .ok () :: rest →
      exec .eOpen s = .next { s with
        enc := { s.enc with pend := .bitrate }
        opusEnc := { inst := some ⟨s.enc.rate, s.enc.ch, none⟩
                     script := { s.opusEnc.script with construct := rest }
                     sent := s.opusEnc.sent ++ [.construct s.enc.rate s.enc.ch .audio] } }) ∧
    (∀ reason rest, s.enc.pend = .start → s.opusEnc.script.construct = .err reason :: rest →
      exec .eOpen s = .next (encRaised 3 reason { s with
        opusEnc := { s.opusEnc with
                     script := { s.opusEnc.script with construct := rest }
                     sent := s.opusEnc.sent ++ [.construct s.enc.rate s.enc.ch .audio] } })) ∧
    (∀ inst rest, s.enc.pend = .bitrate → s.opusEnc.inst = some inst → s.opusEnc.script.bitrate = .ok () :: rest →
      exec .eOpen s = .next { s with
        enc := { s.enc with phase := 3, pend := .start }
        opusEnc := { inst := some { inst with bitrate := some 24000 }
                     script := { s.opusEnc.script with bitrate := rest }
                     sent := s.opusEnc.sent ++ [.setBitrate 24000] } }) ∧
    (∀ reason rest, s.enc.pend = .bitrate → s.opusEnc.script.bitrate = .err reason :: rest →
      exec .eOpen s = .next (encRaised 3 reason { s with
        opusEnc := { s.opusEnc with
                     script := { s.opusEnc.script with bitrate := rest }
                     sent := s.opusEnc.sent ++ [.setBitrate 24000] } }))

/-- E_LOOK (43_encode.md R164). The codec's lookahead `n` gives SKIP = n, SKIPSL = n * KS with KS of R162, TOTAL = N + SKIPSL
where the sum fits 64 bits, SKIP48 = floor(n * 48000 / RATE), and E_SERIAL; a lookahead above 65535 or a SKIP48 above
65535 raises AssertFail, the latter after SKIP, SKIPSL and TOTAL are written; an Err raises CodecFailure. -/
def Obligations.LookaheadSetsTheTimelineRegisters : Prop :=
  ∀ (s : State) (ks : Nat) (rest : List (Answer Nat)),
    (s.params.unitMode = .literal ∧ ks = 1 ∨ s.params.unitMode = .perChannel ∧ ks = s.enc.ch.toNat) →
    let asked : State := { s with opusEnc := { s.opusEnc with
      script := { s.opusEnc.script with lookahead := rest }, sent := s.opusEnc.sent ++ [.lookahead] } }
    (∀ n, s.opusEnc.script.lookahead = .ok n :: rest → n ≤ 65535 → s.enc.rate.toNat ≠ 0 →
      s.enc.n.toNat + n * ks < 18446744073709551616 →
      ∃ (skip skip48 : BitVec 16) (skipSl total : BitVec 64),
        skip.toNat = n ∧ skipSl.toNat = n * ks ∧ total.toNat = s.enc.n.toNat + n * ks ∧
        (n * 48000 / s.enc.rate.toNat ≤ 65535 → skip48.toNat = n * 48000 / s.enc.rate.toNat ∧
          exec .eLook s = .next { asked with
            enc := { s.enc with skip := skip, skipSl := skipSl, total := total, skip48 := skip48, phase := 4,
                                pend := .start } }) ∧
        (65535 < n * 48000 / s.enc.rate.toNat →
          exec .eLook s = .next (encRaised 5 0 { asked with
            enc := { s.enc with skip := skip, skipSl := skipSl, total := total } }))) ∧
    (∀ n, s.opusEnc.script.lookahead = .ok n :: rest → 65535 < n → exec .eLook s = .next (encRaised 5 0 asked)) ∧
    (∀ reason, s.opusEnc.script.lookahead = .err reason :: rest → exec .eLook s = .next (encRaised 3 reason asked))

/-- E_SERIAL (43_encode.md R165) with a sample of RAND32 supplied: the sample is taken once, SERIAL is that sample xor
INSTANCE_ID, ENC goes on to E_HEAD, and nothing else changes. -/
def Obligations.SerialIsRandomXorInstance : Prop :=
  ∀ (s : State) (r : BitVec 32) (rest : List (BitVec 32)), s.randIn = r :: rest →
    exec .eSerial s = .next { s with
      enc := { s.enc with serial := r ^^^ s.params.instanceId, phase := 5, pend := .start }, randIn := rest }

/-- E_SERIAL with no sample of RAND32 supplied: the sample is the free value `Config.rand32` of the counter, one draw is
counted (the model's choice, log 7), SERIAL is that value xor INSTANCE_ID, ENC goes on to E_HEAD, and nothing else changes. It
holds whatever the free value is. -/
def Obligations.SerialWithoutASuppliedSample : Prop :=
  ∀ s : State, s.randIn = [] →
    exec .eSerial s = .next { s with
      enc := { s.enc with serial := Config.rand32 s.freeCount ^^^ s.params.instanceId, phase := 5, pend := .start }
      freeCount := s.freeCount + 1 }

/-- E_HEAD (43_encode.md R168): the 19 bytes of 30_encoding.md R67 are composed at the start of ENC.PKTBUF, every other
byte of it unchanged, and handed to OGGWR with END_PAGE and granule position 0 as one packet with the stream serial; then
PHASE is E_TAGS. Composing and handing over are two steps (log 3). -/
def Obligations.IdHeaderIsComposedAndWritten : Prop :=
  ∀ (s : State) (rest : List (Answer Unit)), s.enc.phase = 5 → s.oggWr.script = .ok () :: rest →
    let hdr := idHeaderSpec s.enc.ch s.enc.skip48.toNat s.enc.rate.toNat
    ∃ buf, Overwrites buf hdr s.enc.pktBuf ∧
      let t : State := { s with enc := { s.enc with pktBuf := buf, pend := .write 19 1 0 } }
      exec .eHead s = .next t ∧ decode (encCode t) = .instr .endPage ∧
      exec .endPage t = .next { t with
        enc := { t.enc with phase := 6, pend := .start }
        oggWr := ⟨rest, s.oggWr.sent ++ [⟨hdr, s.enc.serial, 1, 0⟩], s.oggWr.accepted ++ [⟨hdr, s.enc.serial, 1, 0⟩]⟩ }

/-- E_TAGS (43_encode.md R169): the comment header of 30_encoding.md R70 is composed at the start of ENC.PKTBUF, every
other byte of it unchanged, and handed to OGGWR with END_PAGE and granule position 0; then PHASE is E_MAIN. A vendor
string has at most 3984 bytes (10_state.md R18); EveryInstructionCompletes says what a longer one does. Composing and
handing over are two steps (log 3). -/
def Obligations.CommentHeaderIsComposedAndWritten : Prop :=
  ∀ (s : State) (rest : List (Answer Unit)),
    s.params.vendor.length ≤ 3984 → s.enc.phase = 6 → s.oggWr.script = .ok () :: rest →
      let hdr := commentHeaderSpec s.params.vendor
      ∃ buf, Overwrites buf hdr s.enc.pktBuf ∧
        let t : State := { s with enc := { s.enc with pktBuf := buf, pend := .write (16 + s.params.vendor.length) 1 0 } }
        exec .eTags s = .next t ∧ decode (encCode t) = .instr .endPage ∧
        exec .endPage t = .next { t with
          enc := { t.enc with phase := 7, pend := .start }
          oggWr := ⟨rest, s.oggWr.sent ++ [⟨hdr, s.enc.serial, 1, 0⟩],
                    s.oggWr.accepted ++ [⟨hdr, s.enc.serial, 1, 0⟩]⟩ }

/-! ### ENC: audio packets -/

/-- WINDOW (41_pcm.md R112) when TOTAL = N + SKIPSL: silence below SKIPSL, the input element at the slot less SKIPSL up to
TOTAL where the host has written it and has not written it again during the invocation, zero from TOTAL on; so no read
lies outside the input (20_memory.md R44). -/
def Obligations.WindowIsSilenceThenInputThenPadding : Prop :=
  ∀ (s : State) (p : Nat), s.enc.total.toNat = s.enc.n.toNat + s.enc.skipSl.toNat →
    (p < s.enc.skipSl.toNat → window s p = some 0) ∧
    (s.enc.total.toNat ≤ p → window s p = some 0) ∧
    (s.enc.skipSl.toNat ≤ p → p < s.enc.total.toNat → (window s p).isSome = true ∧
      ∀ v, Memory.read s.pcmIn (p - s.enc.skipSl.toNat) = some v → p - s.enc.skipSl.toNat ∉ s.enc.raced →
        window s p = some v)

/-- FRAMEFILL (41_pcm.md R113): a frame of at most 1920 slots is written element by element from WINDOW, every other
element of ENC.FRAMEBUF unchanged, and goes to the codec next; a longer one raises AssertFail. A frame of at most 1920 slots
whose slot `j` is the first that would read PCM_IN outside the input raises AssertFail there (20_memory.md R44, 43_encode.md
R174), with the elements before it written. -/
def Obligations.FrameFillCopiesTheWindow : Prop :=
  ∀ (s : State) (a slots : Nat),
    (slots ≤ 1920 → (∀ j < slots, (window s (a + j)).isSome = true) →
      ∃ buf : Memory 16,
        frameFill a slots s = { s with enc := { s.enc with frameBuf := buf, pend := .encode slots } } ∧
        ∀ j, Memory.read buf j = if j < slots then window s (a + j) else Memory.read s.enc.frameBuf j) ∧
    (1920 < slots → frameFill a slots s = encRaised 5 0 s) ∧
    (∀ j < slots, slots ≤ 1920 → (∀ k < j, (window s (a + k)).isSome = true) →
      s.enc.skipSl.toNat ≤ a + j → a + j < s.enc.total.toNat → s.enc.n.toNat ≤ a + j - s.enc.skipSl.toNat →
      ∃ buf : Memory 16,
        frameFill a slots s = encRaised 5 0 { s with enc := { s.enc with frameBuf := buf } } ∧
        ∀ k, Memory.read buf k = if k < j then window s (a + k) else Memory.read s.enc.frameBuf k)

/-- E_MAIN before and at its loop test (43_encode.md R170): FS, FSZ, MAX and IDX are set for a supported rate and one or
two channels; at the test an index below MAX has its frame filled from slot IDX * FSZ, and at MAX the position is
MAX * FSZ and E_TAIL follows. -/
def Obligations.MainLoopCountsWholeFrames : Prop :=
  ∀ s : State,
    (s.enc.pend = .start → s.enc.rate.toNat ∈ [8000, 12000, 16000, 24000, 48000] → s.enc.ch = 1 ∨ s.enc.ch = 2 →
      ∃ fs fsz max : BitVec 64, fs.toNat = s.enc.rate.toNat * 20 / 1000 ∧ fsz.toNat = fs.toNat * s.enc.ch.toNat ∧
        max.toNat = s.enc.total.toNat / fsz.toNat ∧
        exec .eMain s = .next { s with
          enc := { s.enc with fs := fs, fsz := fsz, max := max, idx := 0, pend := .loop } }) ∧
    (s.enc.pend = .loop → s.enc.idx.toNat < s.enc.max.toNat →
      exec .eMain s = .next (frameFill (s.enc.idx.toNat * s.enc.fsz.toNat) s.enc.fsz.toNat s)) ∧
    (s.enc.pend = .loop → s.enc.max.toNat ≤ s.enc.idx.toNat →
      s.enc.max.toNat * s.enc.fsz.toNat < 18446744073709551616 →
      ∃ pos : BitVec 64, pos.toNat = s.enc.max.toNat * s.enc.fsz.toNat ∧
        exec .eMain s = .next { s with enc := { s.enc with pos := pos, phase := 8, pend := .start } })

/-- E_TAIL at its loop test (43_encode.md R171): the longest of the four durations whose frame fits the remainder is
filled from POS; when none fits, E_FINAL follows. -/
def Obligations.TailPicksTheLongestFittingDuration : Prop :=
  ∀ (s : State) (d : Nat), s.enc.pend = .start →
    (d ∈ [s.enc.rate.toNat / 50, s.enc.rate.toNat / 100, s.enc.rate.toNat / 200, s.enc.rate.toNat / 400] →
      s.enc.pos.toNat + d * s.enc.ch.toNat ≤ s.enc.total.toNat →
      (∀ d' ∈ [s.enc.rate.toNat / 50, s.enc.rate.toNat / 100, s.enc.rate.toNat / 200, s.enc.rate.toNat / 400],
        s.enc.pos.toNat + d' * s.enc.ch.toNat ≤ s.enc.total.toNat → d' ≤ d) →
      exec .eTail s = .next (frameFill s.enc.pos.toNat (d * s.enc.ch.toNat) s)) ∧
    ((∀ d' ∈ [s.enc.rate.toNat / 50, s.enc.rate.toNat / 100, s.enc.rate.toNat / 200, s.enc.rate.toNat / 400],
        s.enc.total.toNat < s.enc.pos.toNat + d' * s.enc.ch.toNat) →
      exec .eTail s = .next { s with enc := { s.enc with phase := 9, pend := .start } })

/-- E_FINAL at its test (43_encode.md R172): with a remainder a frame of the smallest duration is filled from POS; with
none the invocation is complete (R173): E_DONE, the codec instance released. That the release happens in the step that enters
E_DONE is the model's reading (log 14). -/
def Obligations.FinalPadsTheRemainderOrCompletes : Prop :=
  ∀ s : State, s.enc.pend = .start →
    (s.enc.pos.toNat < s.enc.total.toNat →
      exec .eFinal s = .next (frameFill s.enc.pos.toNat (s.enc.rate.toNat / 400 * s.enc.ch.toNat) s)) ∧
    (s.enc.total.toNat ≤ s.enc.pos.toNat →
      exec .eFinal s = .next { s with
        enc := { s.enc with phase := 10, pend := .start }, opusEnc := { s.opusEnc with inst := none } })

/-- The encode transaction of E_MAIN without the diagnostic (43_encode.md R167, R170): the frame goes to the codec, the
compressed bytes to the start of ENC.PKTBUF, every other byte of it unchanged, and the packet is posted with granule position
SCALE64(SKIP + (IDX + 1) * FS, RATE, 48000) and END_STREAM exactly when it ends at TOTAL. -/
def Obligations.MainPacketCarriesItsGranuleAndMarker : Prop :=
  ∀ (s : State) (slots : Nat) (bytes : List Byte) (rest : List (Answer (List Byte))) (g : BitVec 64),
    s.enc.pend = .encode slots → s.opusEnc.script.encode = .ok bytes :: rest → bytes.length ≤ 4000 →
    s.params.diagEn = false → s.enc.rate.toNat ≠ 0 →
    (s.enc.skip.toNat + (s.enc.idx.toNat + 1) * s.enc.fs.toNat) * 48000 < 18446744073709551616 →
    g.toNat = (s.enc.skip.toNat + (s.enc.idx.toNat + 1) * s.enc.fs.toNat) * 48000 / s.enc.rate.toNat →
    ∃ buf, Overwrites buf bytes s.enc.pktBuf ∧
      exec .eMain s = .next { s with
        enc := { s.enc with
          pktBuf := buf
          pend := .write bytes.length
            (if s.enc.idx.toNat * s.enc.fsz.toNat + s.enc.fsz.toNat = s.enc.total.toNat then 2 else 0) g }
        opusEnc := { s.opusEnc with
          script := { s.opusEnc.script with encode := rest }
          sent := s.opusEnc.sent ++
            [.encode (samplesAt .frameBuf s.enc.frameBuf 0 slots) (slots / s.enc.ch.toNat) 4000] } }

/-- The encode transaction of E_TAIL without the diagnostic (43_encode.md R167, R171): POS moves on by the frame, and the
packet is posted with granule position SCALE64(floor(POS / KG), RATE, 48000) and END_STREAM exactly when POS is TOTAL. -/
def Obligations.TailPacketCarriesTheRunningPosition : Prop :=
  ∀ (s : State) (slots kg : Nat) (bytes : List Byte) (rest : List (Answer (List Byte))) (pos g : BitVec 64),
    (s.params.unitMode = .literal ∧ kg = 1 ∨ s.params.unitMode = .perChannel ∧ kg = s.enc.ch.toNat) → kg ≠ 0 →
    s.enc.pend = .encode slots → s.opusEnc.script.encode = .ok bytes :: rest → bytes.length ≤ 4000 →
    s.params.diagEn = false → s.enc.rate.toNat ≠ 0 → pos.toNat = s.enc.pos.toNat + slots →
    pos.toNat / kg * 48000 < 18446744073709551616 → g.toNat = pos.toNat / kg * 48000 / s.enc.rate.toNat →
    ∃ buf, Overwrites buf bytes s.enc.pktBuf ∧
      exec .eTail s = .next { s with
        enc := { s.enc with
          pos := pos
          pktBuf := buf
          pend := .write bytes.length (if pos = s.enc.total then 2 else 0) g }
        opusEnc := { s.opusEnc with
          script := { s.opusEnc.script with encode := rest }
          sent := s.opusEnc.sent ++
            [.encode (samplesAt .frameBuf s.enc.frameBuf 0 slots) (slots / s.enc.ch.toNat) 4000] } }

/-- The encode transaction of E_FINAL without the diagnostic (43_encode.md R167, R172): the packet is posted with the granule
position of TOTAL, never the padded length, and END_STREAM. -/
def Obligations.FinalPacketCarriesTheTotal : Prop :=
  ∀ (s : State) (slots kg : Nat) (bytes : List Byte) (rest : List (Answer (List Byte))) (g : BitVec 64),
    (s.params.unitMode = .literal ∧ kg = 1 ∨ s.params.unitMode = .perChannel ∧ kg = s.enc.ch.toNat) → kg ≠ 0 →
    s.enc.pend = .encode slots → s.opusEnc.script.encode = .ok bytes :: rest → bytes.length ≤ 4000 →
    s.params.diagEn = false → s.enc.rate.toNat ≠ 0 →
    s.enc.total.toNat / kg * 48000 < 18446744073709551616 →
    g.toNat = s.enc.total.toNat / kg * 48000 / s.enc.rate.toNat →
    ∃ buf, Overwrites buf bytes s.enc.pktBuf ∧
      exec .eFinal s = .next { s with
        enc := { s.enc with pktBuf := buf, pend := .write bytes.length 2 g }
        opusEnc := { s.opusEnc with
          script := { s.opusEnc.script with encode := rest }
          sent := s.opusEnc.sent ++
            [.encode (samplesAt .frameBuf s.enc.frameBuf 0 slots) (slots / s.enc.ch.toNat) 4000] } }

/-- The failures of the encode transaction in E_MAIN, E_TAIL and E_FINAL (43_encode.md R167, R174): an Err raises
CodecFailure with its reason, more than 4000 bytes raise AssertFail, and every other field is unchanged. That ENC.PKTBUF holds
nothing of an over-long answer is the model's reading (log 13). -/
def Obligations.EncodeTransactionFailures : Prop :=
  ∀ (s : State) (slots : Nat) (rest : List (Answer (List Byte))) (i : Instr), i ∈ [.eMain, .eTail, .eFinal] →
    s.enc.pend = .encode slots →
    let asked : State := { s with opusEnc := { s.opusEnc with
      script := { s.opusEnc.script with encode := rest }
      sent := s.opusEnc.sent ++
        [.encode (samplesAt .frameBuf s.enc.frameBuf 0 slots) (slots / s.enc.ch.toNat) 4000] } }
    (∀ reason, s.opusEnc.script.encode = .err reason :: rest → exec i s = .next (encRaised 3 reason asked)) ∧
    (∀ bytes, s.opusEnc.script.encode = .ok bytes :: rest → 4000 < bytes.length → exec i s = .next (encRaised 5 0 asked))

/-- The diagnostic of ENC (60_exceptions.md R216, 43_encode.md R167 and R170 to R172). With DIAG_EN a compressed frame is put at
the start of ENC.PKTBUF and nothing else of the phase has happened yet; the final_range transaction that follows puts its value
into ENC.DIAG, sets DIAGV, and the packet is posted with the granule position and the end marker it has without the
diagnostic: from SKIP, IDX and FS in E_MAIN, from the moved POS in E_TAIL, from TOTAL with END_STREAM in E_FINAL. -/
def Obligations.FinalRangeIsReadAfterEachFrame : Prop :=
  ∀ (s : State) (slots : Nat),
    (∀ i bytes rest, i ∈ [Instr.eMain, .eTail, .eFinal] → s.enc.pend = .encode slots →
      s.opusEnc.script.encode = .ok bytes :: rest → bytes.length ≤ 4000 → s.params.diagEn = true →
      ∃ buf, Overwrites buf bytes s.enc.pktBuf ∧
        exec i s = .next { s with
          enc := { s.enc with pktBuf := buf, pend := .range bytes.length slots }
          opusEnc := { s.opusEnc with
            script := { s.opusEnc.script with encode := rest }
            sent := s.opusEnc.sent ++
              [.encode (samplesAt .frameBuf s.enc.frameBuf 0 slots) (slots / s.enc.ch.toNat) 4000] } }) ∧
    (∀ (len kg : Nat) (v : BitVec 32) (rest : List (BitVec 32)) (pos g : BitVec 64), s.enc.pend = .range len slots →
      s.opusEnc.script.range = v :: rest → s.enc.rate.toNat ≠ 0 →
      (s.params.unitMode = .literal ∧ kg = 1 ∨ s.params.unitMode = .perChannel ∧ kg = s.enc.ch.toNat) → kg ≠ 0 →
      let ranged : State := { s with
        enc := { s.enc with diag := v, diagV := true }
        opusEnc := { s.opusEnc with
          script := { s.opusEnc.script with range := rest }, sent := s.opusEnc.sent ++ [.finalRange] } }
      ((s.enc.skip.toNat + (s.enc.idx.toNat + 1) * s.enc.fs.toNat) * 48000 < 18446744073709551616 →
        g.toNat = (s.enc.skip.toNat + (s.enc.idx.toNat + 1) * s.enc.fs.toNat) * 48000 / s.enc.rate.toNat →
        exec .eMain s = .next { ranged with enc := { ranged.enc with
          pend := .write len
            (if s.enc.idx.toNat * s.enc.fsz.toNat + s.enc.fsz.toNat = s.enc.total.toNat then 2 else 0) g } }) ∧
      (pos.toNat = s.enc.pos.toNat + slots → pos.toNat / kg * 48000 < 18446744073709551616 →
        g.toNat = pos.toNat / kg * 48000 / s.enc.rate.toNat →
        exec .eTail s = .next { ranged with enc := { ranged.enc with
          pos := pos, pend := .write len (if pos = s.enc.total then 2 else 0) g } }) ∧
      (s.enc.total.toNat / kg * 48000 < 18446744073709551616 →
        g.toNat = s.enc.total.toNat / kg * 48000 / s.enc.rate.toNat →
        exec .eFinal s = .next { ranged with enc := { ranged.enc with pend := .write len 2 g } }))

/-- A granule position outside SCALE64's domain (40_convert.md R94, R97; 43_encode.md R174) raises AssertFail in E_MAIN, E_TAIL
and E_FINAL, after the transaction that comes before it: the encode transaction with its bytes in ENC.PKTBUF where DIAG_EN is
off, the final_range transaction with DIAG and DIAGV written where it is on. In E_TAIL POS has moved on. A unit KG of 0, which
no run reaches, is an AssertFail of the model (log 20). -/
def Obligations.GranuleOutsideTheDomainAsserts : Prop :=
  ∀ (s done : State) (slots kg : Nat) (pos : BitVec 64),
    (s.params.unitMode = .literal ∧ kg = 1 ∨ s.params.unitMode = .perChannel ∧ kg = s.enc.ch.toNat) →
    ((∃ bytes rest, s.enc.pend = .encode slots ∧ s.opusEnc.script.encode = .ok bytes :: rest ∧ bytes.length ≤ 4000 ∧
        s.params.diagEn = false ∧ done = { s with
          enc := { s.enc with pktBuf := Memory.writeBlock s.enc.pktBuf 0 bytes }
          opusEnc := { s.opusEnc with
            script := { s.opusEnc.script with encode := rest }
            sent := s.opusEnc.sent ++
              [.encode (samplesAt .frameBuf s.enc.frameBuf 0 slots) (slots / s.enc.ch.toNat) 4000] } }) ∨
      (∃ len v rest, s.enc.pend = .range len slots ∧ s.opusEnc.script.range = v :: rest ∧ done = { s with
          enc := { s.enc with diag := v, diagV := true }
          opusEnc := { s.opusEnc with
            script := { s.opusEnc.script with range := rest }, sent := s.opusEnc.sent ++ [.finalRange] } })) →
    (s.enc.rate.toNat = 0 ∨
        18446744073709551616 ≤ (s.enc.skip.toNat + (s.enc.idx.toNat + 1) * s.enc.fs.toNat) * 48000 →
      exec .eMain s = .next (encRaised 5 0 done)) ∧
    (pos.toNat = s.enc.pos.toNat + slots →
      kg = 0 ∨ s.enc.rate.toNat = 0 ∨ 18446744073709551616 ≤ pos.toNat / kg * 48000 →
      exec .eTail s = .next (encRaised 5 0 { done with enc := { done.enc with pos := pos } })) ∧
    (kg = 0 ∨ s.enc.rate.toNat = 0 ∨ 18446744073709551616 ≤ s.enc.total.toNat / kg * 48000 →
      exec .eFinal s = .next (encRaised 5 0 done))

/-- EMIT (43_encode.md R166) for each end marker, on the posted descriptor: the packet ENC.PKTBUF[0 .. len) with the
stream serial, the marker and the granule position goes to OGGWR. On Ok it is accepted, END_STREAM and only END_STREAM
sets ENC.EOS, and the phase goes on: E_HEAD to E_TAGS, E_TAGS to E_MAIN, E_MAIN to its next index, E_TAIL to its loop test,
E_FINAL with POS = TOTAL to E_DONE (R168 to R172). On Err IOFailure is raised with the reason and the packet is not accepted.
That the markers are operations is the model's reading (log 15), and so is that the instance is released in the step that enters
E_DONE (log 14). -/
def Obligations.WritePacketEmitsAndGoesOn : Prop :=
  ∀ (s : State) (len : Nat) (gran : BitVec 64) (m : BitVec 2) (i : Instr) (rest : List (Answer Unit)),
    (i, m) ∈ [(Instr.normal, (0 : BitVec 2)), (.endPage, 1), (.endStream, 2)] → s.enc.pend = .write len m gran →
    let pkt : Packet := ⟨bytesAt .pktBuf s.enc.pktBuf 0 len, s.enc.serial, m, gran⟩
    let eos := if m = 2 then true else s.enc.eos
    (s.oggWr.script = .ok () :: rest →
      let wr : OggWr := ⟨rest, s.oggWr.sent ++ [pkt], s.oggWr.accepted ++ [pkt]⟩
      (s.enc.phase = 5 ∨ s.enc.phase = 6 → exec i s = .next { s with
        enc := { s.enc with eos := eos, phase := s.enc.phase + 1, pend := .start }, oggWr := wr }) ∧
      (s.enc.phase = 7 → s.enc.idx.toNat + 1 < 18446744073709551616 → exec i s = .next { s with
        enc := { s.enc with eos := eos, idx := s.enc.idx + 1, pend := .loop }, oggWr := wr }) ∧
      (s.enc.phase = 8 → exec i s = .next { s with enc := { s.enc with eos := eos, pend := .start }, oggWr := wr }) ∧
      (s.enc.phase = 9 → exec i s = .next { s with
        enc := { s.enc with eos := eos, pos := s.enc.total, phase := 10, pend := .start }
        oggWr := wr
        opusEnc := { s.opusEnc with inst := none } })) ∧
    (∀ reason, s.oggWr.script = .err reason :: rest →
      exec i s = .next (encRaised 4 reason { s with oggWr := ⟨rest, s.oggWr.sent ++ [pkt], s.oggWr.accepted⟩ }))

/-- The consequences of 43_encode.md R171: for a supported rate and one or two channels, on a remainder shorter than one
20 ms frame the 20 ms duration never fits, what fits is at most 10 ms, and after a fit what is left is shorter than that
fit, so the fits strictly fall and there are at most three. -/
def Obligations.TailFitsStrictlyFall : Prop :=
  ∀ rate ch pos total d : Nat, rate ∈ [8000, 12000, 16000, 24000, 48000] → ch = 1 ∨ ch = 2 →
    total - pos < rate / 50 * ch → tailPick rate ch pos total = some d →
    d ∈ [rate / 100, rate / 200, rate / 400] ∧ pos + d * ch ≤ total ∧ total - (pos + d * ch) < d * ch ∧
    ∀ d', tailPick rate ch (pos + d * ch) total = some d' → d' < d

/-! ### DEC -/

/-- D_HEAD and D_TAGS, reading (42_decode.md R131, R136): a packet replaces PKT_IN byte for byte, its length (below 2^32),
granule position and last flag are stored, and it is to be interpreted next; no packet raises MalformedAudio, a read
failure raises IOFailure with its reason. Nothing else changes. -/
def Obligations.HeaderPacketsAreRead : Prop :=
  ∀ (s : State) (rest : List ReadAnswer) (i : Instr) (next : DecPend),
    (i, next) ∈ [(Instr.dHead, DecPend.head), (.dTags, .tags)] →
    let rd : OggRd := ⟨rest, s.oggRd.reads + 1⟩
    (∀ bytes gran last, s.oggRd.script = .packet bytes gran last :: rest → bytes.length < 4294967296 →
      ∃ (buf : Memory 8) (len : BitVec 32), (∀ a, Memory.read buf a = bytes[a]?) ∧ len.toNat = bytes.length ∧
        exec i s = .next { s with
          oggRd := rd
          dec := { s.dec with pktIn := buf, pktLen := len, pktGran := gran, pktLast := last, pend := next } }) ∧
    (s.oggRd.script = .exhausted :: rest → exec i s = .next (decRaised 1 0 { s with oggRd := rd })) ∧
    (∀ reason, s.oggRd.script = .err reason :: rest → exec i s = .next (decRaised 4 reason { s with oggRd := rd }))

/-- The first packet (42_decode.md R132, R133; 30_encoding.md R68): the instruction it decodes to, run at any state, takes
the channel count, the little-endian pre-skip and gain and goes on to D_OPEN when the packet passes the four checks, and
raises MalformedAudio otherwise; nothing else of the packet has an effect. -/
def Obligations.FirstPacketIsCheckedAndTaken : Prop :=
  ∀ (s : State) (b : List Byte), ∃ i, decode (.headPacket b) = .instr i ∧
    (IdHeaderAccepted b → exec i s = .next { s with
      dec := { s.dec with
        ch := b.getD 9 0
        preSkip48 := BitVec.ofNat 16 ((b.getD 10 0).toNat + 256 * (b.getD 11 0).toNat)
        gain := BitVec.ofNat 16 ((b.getD 16 0).toNat + 256 * (b.getD 17 0).toNat)
        phase := 2
        pend := .start } }) ∧
    (¬ IdHeaderAccepted b → exec i s = .next (decRaised 1 0 s))

/-- The second packet (42_decode.md R136; 30_encoding.md R70): it leads to D_FRAME when its length is at least 12 and its
first eight bytes read "OpusTags", whatever else it holds, and raises MalformedAudio otherwise. -/
def Obligations.SecondPacketIsChecked : Prop :=
  ∀ (s : State) (b : List Byte), ∃ i, decode (.tagsPacket b) = .instr i ∧
    (CommentHeaderAccepted b → exec i s = .next { s with dec := { s.dec with phase := 4, pend := .start } }) ∧
    (¬ CommentHeaderAccepted b → exec i s = .next (decRaised 1 0 s))

/-- OPUSHEAD and OPUSTAGS as operations on their fields (42_decode.md R132, R133, R136): a channel byte of 1 or 2 is taken
with the pre-skip and the gain, any other raises MalformedAudio; the comment header leads to D_FRAME. -/
def Obligations.HeaderOperationsCompleteTheirPhase : Prop :=
  ∀ (s : State) (ch f : BitVec 8) (ps g : BitVec 16) (r l : BitVec 32) (x : List Byte),
    (ch = 1 ∨ ch = 2 → exec (.opusHead ch ps r g f x) s = .next { s with
      dec := { s.dec with ch := ch, preSkip48 := ps, gain := g, phase := 2, pend := .start } }) ∧
    (ch ≠ 1 → ch ≠ 2 → exec (.opusHead ch ps r g f x) s = .next (decRaised 1 0 s)) ∧
    exec (.opusTags l x) s = .next { s with dec := { s.dec with phase := 4, pend := .start } }

/-- D_OPEN (42_decode.md R134, R135): an unsupported rate raises InvalidSampleRate before any transaction; construct with
the rate and the channels, then set_gain with the gain of the header; an Err raises CodecFailure with its reason; then
SKIPREM = floor(PRESKIP48 * TRATE / 48000), TOTALDEC = 0 and D_TAGS. -/
def Obligations.DecoderOpensAfterValidation : Prop :=
  ∀ s : State,
    (s.dec.pend = .start → s.dec.tRate.toNat ∉ [8000, 12000, 16000, 24000, 48000] →
      exec .dOpen s = .next (decRaised 2 0 s)) ∧
    (s.dec.pend = .start → s.dec.tRate.toNat ∈ [8000, 12000, 16000, 24000, 48000] →
      (∀ rest, s.opusDec.script.construct = .ok () :: rest → exec .dOpen s = .next { s with
        dec := { s.dec with pend := .gain }
        opusDec := { inst := some ⟨s.dec.tRate, s.dec.ch, none⟩
                     script := { s.opusDec.script with construct := rest }
                     sent := s.opusDec.sent ++ [.construct s.dec.tRate s.dec.ch] } }) ∧
      (∀ reason rest, s.opusDec.script.construct = .err reason :: rest → exec .dOpen s = .next (decRaised 3 reason { s with
        opusDec := { s.opusDec with
                     script := { s.opusDec.script with construct := rest }
                     sent := s.opusDec.sent ++ [.construct s.dec.tRate s.dec.ch] } }))) ∧
    (∀ inst rest, s.dec.pend = .gain → s.dec.tRate.toNat ∈ [8000, 12000, 16000, 24000, 48000] →
      s.opusDec.inst = some inst → s.opusDec.script.gain = .ok () :: rest →
      ∃ rem : BitVec 16, rem.toNat = s.dec.preSkip48.toNat * s.dec.tRate.toNat / 48000 ∧
        exec .dOpen s = .next { s with
          dec := { s.dec with skipRem := rem, totalDec := 0, phase := 3, pend := .start }
          opusDec := { inst := some { inst with gain := some s.dec.gain }
                       script := { s.opusDec.script with gain := rest }
                       sent := s.opusDec.sent ++ [.setGain s.dec.gain] } }) ∧
    (∀ reason rest, s.dec.pend = .gain → s.opusDec.script.gain = .err reason :: rest →
      exec .dOpen s = .next (decRaised 3 reason { s with
        opusDec := { s.opusDec with
                     script := { s.opusDec.script with gain := rest }
                     sent := s.opusDec.sent ++ [.setGain s.dec.gain] } }))

/-- D_FRAME, the loop's read (42_decode.md R137, R140): a packet is stored to be decoded, the exhausted container completes the
command (D_DONE, OUT_CH from CH, the instance released), a read failure raises IOFailure. That OUT_CH is set and the instance
released in the step that enters D_DONE, whose actions R140 lists, is the model's reading (log 14). -/
def Obligations.FrameLoopReadsUntilExhausted : Prop :=
  ∀ (s : State) (rest : List ReadAnswer), s.dec.pend = .start →
    let rd : OggRd := ⟨rest, s.oggRd.reads + 1⟩
    (∀ bytes gran last, s.oggRd.script = .packet bytes gran last :: rest → bytes.length < 4294967296 →
      ∃ (buf : Memory 8) (len : BitVec 32), (∀ a, Memory.read buf a = bytes[a]?) ∧ len.toNat = bytes.length ∧
        exec .dFrame s = .next { s with
          oggRd := rd
          dec := { s.dec with pktIn := buf, pktLen := len, pktGran := gran, pktLast := last, pend := .packet } }) ∧
    (s.oggRd.script = .exhausted :: rest → ∃ outCh : BitVec 16, outCh.toNat = s.dec.ch.toNat ∧
      exec .dFrame s = .next { s with
        oggRd := rd
        dec := { s.dec with phase := 5, pend := .start, outCh := outCh }
        opusDec := { s.opusDec with inst := none } }) ∧
    (∀ reason, s.oggRd.script = .err reason :: rest → exec .dFrame s = .next (decRaised 4 reason { s with oggRd := rd }))

/-- D_FRAME, one packet without the diagnostic (42_decode.md R138): the packet goes to the codec; an Err raises
CodecFailure, more than 5760 samples raise AssertFail; else NDEC and the frame in DEC.SCRATCH are stored, every other
element of it unchanged, and with the declared end position in the target rate the frame is trimmed and appended, or
AssertFail is raised when the granule position is outside SCALE64's domain, on any packet. That an answer above 5760 samples
leaves DEC.SCRATCH unchanged (log 13), and that the elements a short answer does not give keep their value (log 25), is the
model's reading. -/
def Obligations.DecodedFrameIsTrimmedAndAppended : Prop :=
  ∀ (s : State) (rest : List (Answer Decoding)), s.dec.pend = .packet → s.params.diagEn = false →
    let asked : State := { s with opusDec := { s.opusDec with
      script := { s.opusDec.script with decode := rest }, sent := s.opusDec.sent ++ [.decode (pktBytes s) 5760] } }
    (∀ reason, s.opusDec.script.decode = .err reason :: rest → exec .dFrame s = .next (decRaised 3 reason asked)) ∧
    (∀ d, s.opusDec.script.decode = .ok d :: rest → 5760 < d.n → exec .dFrame s = .next (decRaised 5 0 asked)) ∧
    (∀ d, s.opusDec.script.decode = .ok d :: rest → d.n ≤ 5760 →
      ∃ (n : BitVec 16) (buf : Memory 16), n.toNat = d.n ∧ Overwrites buf (d.samples.take (d.n * s.dec.ch.toNat)) s.dec.scratch ∧
        let t : State := { asked with dec := { s.dec with nDec := n, scratch := buf } }
        (18446744073709551616 ≤ s.dec.pktGran.toNat * s.dec.tRate.toNat → exec .dFrame s = .next (decRaised 5 0 t)) ∧
        (s.dec.pktGran.toNat * s.dec.tRate.toNat < 18446744073709551616 →
          exec .dFrame s =
            .next (frameOut d.n (s.dec.pktGran.toNat * s.dec.tRate.toNat / 48000) s.dec.pktLast t)))

/-- The diagnostic of DEC (42_decode.md R138, 60_exceptions.md R216). With DIAG_EN an Err raises CodecFailure and more than 5760
samples raise AssertFail, as without it; a decoded frame is stored in DEC.SCRATCH with its count and nothing else of the packet
has happened yet; the final_range transaction that follows puts its value into DEC.DIAG, sets DIAGV, and the frame is trimmed
and appended as without the diagnostic, or AssertFail is raised when the granule position is outside SCALE64's domain. The
contents of DEC.SCRATCH after an answer above 5760 samples (log 13) and past a short answer (log 25) are the model's reading. -/
def Obligations.FinalRangeIsReadAfterEachDecodedFrame : Prop :=
  ∀ s : State,
    (∀ rest, s.dec.pend = .packet → s.params.diagEn = true →
      let asked : State := { s with opusDec := { s.opusDec with
        script := { s.opusDec.script with decode := rest }, sent := s.opusDec.sent ++ [.decode (pktBytes s) 5760] } }
      (∀ reason, s.opusDec.script.decode = .err reason :: rest → exec .dFrame s = .next (decRaised 3 reason asked)) ∧
      (∀ d, s.opusDec.script.decode = .ok d :: rest → 5760 < d.n → exec .dFrame s = .next (decRaised 5 0 asked)) ∧
      (∀ d, s.opusDec.script.decode = .ok d :: rest → d.n ≤ 5760 →
        ∃ (n : BitVec 16) (buf : Memory 16), n.toNat = d.n ∧
          Overwrites buf (d.samples.take (d.n * s.dec.ch.toNat)) s.dec.scratch ∧
          exec .dFrame s = .next { asked with dec := { s.dec with nDec := n, scratch := buf, pend := .range } })) ∧
    (∀ v rest, s.dec.pend = .range → s.opusDec.script.range = v :: rest →
      let ranged : State := { s with
        dec := { s.dec with diag := v, diagV := true }
        opusDec := { s.opusDec with
          script := { s.opusDec.script with range := rest }, sent := s.opusDec.sent ++ [.finalRange] } }
      (18446744073709551616 ≤ s.dec.pktGran.toNat * s.dec.tRate.toNat →
        exec .dFrame s = .next (decRaised 5 0 ranged)) ∧
      (s.dec.pktGran.toNat * s.dec.tRate.toNat < 18446744073709551616 →
        exec .dFrame s = .next (frameOut s.dec.nDec.toNat (s.dec.pktGran.toNat * s.dec.tRate.toNat / 48000)
          s.dec.pktLast ranged)))

/-- FRAMEOUT (41_pcm.md R115 to R119) where the running total and OUTLEN stay below 2^64. The total counts the whole frame.
On the last packet, a total above the declared end trims the difference off the frame's end, and a difference above the
frame raises MalformedAudio with the total counted and nothing else. What is kept first uses up SKIPREM; the rest is
appended to PCM_OUT at OUTLEN, per-channel sample by per-channel sample, every element below OUTLEN unchanged. -/
def Obligations.FrameOutCountsTrimsSkipsAppends : Prop :=
  ∀ (s : State) (n endPos keep off : Nat) (last : Bool) (total : BitVec 64),
    total.toNat = s.dec.totalDec.toNat + n →
    (last = true → endPos < total.toNat → n < total.toNat - endPos →
      frameOut n endPos last s = decRaised 1 0 { s with dec := { s.dec with totalDec := total } }) ∧
    (((last = false ∨ total.toNat ≤ endPos) ∧ keep = n) ∨
      (last = true ∧ endPos < total.toNat ∧ total.toNat - endPos ≤ n ∧ keep = n - (total.toNat - endPos)) →
      off = min keep s.dec.skipRem.toNat →
      s.dec.outLen.toNat + (keep - off) * s.dec.ch.toNat < 18446744073709551616 →
      ∃ (rem : BitVec 16) (outLen : BitVec 64) (out : Memory 16),
        rem.toNat = s.dec.skipRem.toNat - off ∧
        outLen.toNat = s.dec.outLen.toNat + (keep - off) * s.dec.ch.toNat ∧
        (∀ a, a < s.dec.outLen.toNat ∨ outLen.toNat ≤ a → Memory.read out a = Memory.read s.pcmOut a) ∧
        (∀ k c, off ≤ k → k < keep → c < s.dec.ch.toNat →
          Memory.read out (s.dec.outLen.toNat + ilv s.dec.ch.toNat (k - off) c) =
            some (sampleAt .scratch s.dec.scratch (ilv s.dec.ch.toNat k c))) ∧
        frameOut n endPos last s = { s with
          pcmOut := out
          dec := { s.dec with totalDec := total, skipRem := rem, outLen := outLen, pend := .start } })

/-- The interleaving map (41_pcm.md R110): ILV and DILV are inverse, and sample frames k0 to k1 are exactly the
elements from k0 * C up to k1 * C. -/
def Obligations.InterleavingIsABijectionOfFrames : Prop :=
  ∀ nch : Nat, 0 < nch →
    (∀ k c, c < nch → dilv nch (ilv nch k c) = (k, c)) ∧
    (∀ e, ilv nch (dilv nch e).1 (dilv nch e).2 = e ∧ (dilv nch e).2 < nch) ∧
    (∀ k0 k1 e, k0 * nch ≤ e ∧ e < k1 * nch ↔ ∃ k c, k0 ≤ k ∧ k < k1 ∧ c < nch ∧ e = ilv nch k c)

/-- Whole streams (42_decode.md R142 (b), (c)). Frames that are not last, of counts `ns` with any declared ends, appended one
after another to an empty output with pre-skip S, leave OUTLEN = max(0, T - S) * C for the sum T of the counts; a
last frame after them whose declared end lies between the total before it and the total after it leaves
OUTLEN = max(0, end - S) * C. -/
def Obligations.OutputLengthIsDeclaredLengthLessPreSkip : Prop :=
  ∀ (s : State) (frames : List (Nat × Nat)),
    s.dec.outLen = 0 → s.dec.totalDec = 0 →
    let played := frames.foldl (fun t f => frameOut f.1 f.2 false t) s
    let total := (frames.map Prod.fst).sum
    total < 18446744073709551616 → total * s.dec.ch.toNat < 18446744073709551616 →
    played.dec.totalDec.toNat = total ∧ played.dec.ch = s.dec.ch ∧
    played.dec.outLen.toNat = (total - s.dec.skipRem.toNat) * s.dec.ch.toNat ∧
    ∀ n endPos, total ≤ endPos → endPos ≤ total + n → total + n < 18446744073709551616 →
      endPos * s.dec.ch.toNat < 18446744073709551616 →
      (frameOut n endPos true played).dec.outLen.toNat = (endPos - s.dec.skipRem.toNat) * s.dec.ch.toNat

/-! ### Errors, rest, waiting -/

/-- The error codes as operations (60_exceptions.md R200, R202, R203): each of the codes 1 to 6 records itself and its
information value, releases the instance and enters `*_ERROR`, everything else unchanged; IllegalCommand does so at a
pipeline that is not BUSY. Code 0, no error recorded, clears ERR and ERRINFO (the model's reading, log 16, log 19). -/
def Obligations.ErrorCodesRaise : Prop :=
  ∀ (s : State) (info : BitVec 32),
    (exec (.malformedAudio .enc) s = .next (encRaised 1 0 s) ∧ exec (.malformedAudio .dec) s = .next (decRaised 1 0 s)) ∧
    (exec (.invalidSampleRate .enc) s = .next (encRaised 2 0 s) ∧
      exec (.invalidSampleRate .dec) s = .next (decRaised 2 0 s)) ∧
    (exec (.codecFailure .enc info) s = .next (encRaised 3 info s) ∧
      exec (.codecFailure .dec info) s = .next (decRaised 3 info s)) ∧
    (exec (.ioFailure .enc info) s = .next (encRaised 4 info s) ∧
      exec (.ioFailure .dec info) s = .next (decRaised 4 info s)) ∧
    (exec (.assertFail .enc) s = .next (encRaised 5 0 s) ∧ exec (.assertFail .dec) s = .next (decRaised 5 0 s)) ∧
    (status .enc s ≠ .busy → exec (.illegalCommand .enc) s = .next (encRaised 6 0 s)) ∧
    (status .dec s ≠ .busy → exec (.illegalCommand .dec) s = .next (decRaised 6 0 s)) ∧
    (exec (.errNone .enc) s = .next { s with enc := { s.enc with err := 0, errInfo := 0, pend := .start } } ∧
      exec (.errNone .dec) s = .next { s with dec := { s.dec with err := 0, errInfo := 0, pend := .start } })

/-- The phases in which a pipeline rests (10_state.md R14, 43_encode.md R173, 42_decode.md R140, 60_exceptions.md R206, R217):
`*_IDLE` and `*_ERROR` change nothing, and `*_DONE` leaves the pipeline DONE with no codec instance, DEC with OUT_CH
equal to CH. -/
def Obligations.RestingPhasesRest : Prop :=
  ∀ s : State,
    exec .eIdle s = .next s ∧ exec .eError s = .next s ∧ exec .dIdle s = .next s ∧ exec .dError s = .next s ∧
    exec .eDone s = .next { s with
      enc := { s.enc with phase := 10, pend := .start }, opusEnc := { s.opusEnc with inst := none } } ∧
    ∃ outCh : BitVec 16, outCh.toNat = s.dec.ch.toNat ∧
      exec .dDone s = .next { s with
        dec := { s.dec with phase := 5, pend := .start, outCh := outCh }, opusDec := { s.opusDec with inst := none } }

/-- A port that has not answered keeps its pipeline waiting with nothing changed (70_reset_and_hazards.md R239), for
every transaction of both pipelines. -/
def Obligations.UnansweredPortsKeepThePipelineWaiting : Prop :=
  ∀ s : State,
    (s.enc.pend = .start → s.opusEnc.script.construct = [] → exec .eOpen s = .next s) ∧
    (s.enc.pend = .bitrate → s.opusEnc.script.bitrate = [] → exec .eOpen s = .next s) ∧
    (s.opusEnc.script.lookahead = [] → exec .eLook s = .next s) ∧
    (∀ i slots, i ∈ [.eMain, .eTail, .eFinal] → s.enc.pend = .encode slots → s.opusEnc.script.encode = [] →
      exec i s = .next s) ∧
    (∀ i len slots, i ∈ [.eMain, .eTail, .eFinal] → s.enc.pend = .range len slots → s.opusEnc.script.range = [] →
      exec i s = .next s) ∧
    (∀ i, i ∈ [.normal, .endPage, .endStream] → s.oggWr.script = [] → exec i s = .next s) ∧
    (∀ i, i ∈ [.dHead, .dTags] → s.oggRd.script = [] → exec i s = .next s) ∧
    (s.dec.pend = .start → s.oggRd.script = [] → exec .dFrame s = .next s) ∧
    (s.dec.pend = .start → s.dec.tRate.toNat ∈ [8000, 12000, 16000, 24000, 48000] →
      s.opusDec.script.construct = [] → exec .dOpen s = .next s) ∧
    (s.dec.pend = .gain → s.opusDec.script.gain = [] → exec .dOpen s = .next s) ∧
    (s.dec.pend = .packet → s.opusDec.script.decode = [] → exec .dFrame s = .next s) ∧
    (s.dec.pend = .range → s.opusDec.script.range = [] → exec .dFrame s = .next s)

/-- No instruction aborts the machine (60_exceptions.md R209): every one answers a next state, but for E_TAGS with a
vendor string longer than 3984 bytes, which is refused (10_state.md R18, 93_implementation_defined.md U12, log 11). -/
def Obligations.EveryInstructionCompletes : Prop :=
  (∀ (i : Instr) (s : State), (i = .eTags → s.params.vendor.length ≤ 3984) → ∃ t, exec i s = .next t) ∧
  (∀ s : State, 3984 < s.params.vendor.length → exec .eTags s = .refused .vendorTooLong)

/-! ### Status, reset, the host -/

/-- STATUS is a function of PHASE (10_state.md R15): 0 (IDLE) in `*_IDLE`, 2 (DONE) in `*_DONE`, 3 (ERROR) in `*_ERROR`, 1 (BUSY)
in every other phase; and DONE_OUT is 1 exactly in DONE and ERROR (60_exceptions.md R208). -/
def Obligations.StatusFollowsPhase : Prop :=
  ∀ s : State,
    (status .enc s).code = (if s.enc.phase = 0 then 0 else if s.enc.phase = 10 then 2 else if s.enc.phase = 15 then 3 else 1) ∧
    (status .dec s).code = (if s.dec.phase = 0 then 0 else if s.dec.phase = 5 then 2 else if s.dec.phase = 15 then 3 else 1) ∧
    (status .enc s = .idle ↔ s.enc.phase = 0) ∧ (status .enc s = .done ↔ s.enc.phase = 10) ∧
    (status .enc s = .error ↔ s.enc.phase = 15) ∧
    (status .dec s = .idle ↔ s.dec.phase = 0) ∧ (status .dec s = .done ↔ s.dec.phase = 5) ∧
    (status .dec s = .error ↔ s.dec.phase = 15) ∧
    ∀ p, (doneOut p s = true ↔ status p s = .done ∨ status p s = .error)

/-- The values that 10_state.md R30 gives after reset, and they are what RESET leaves in any state, with the packets OGGWR
has accepted kept (70_reset_and_hazards.md R230, R231). That this holds after RESET in mid-command too, where U13 lets PCM_OUT, the
instances and the writer's packets be anything, is the model's reading (log 21). -/
def Obligations.ResetLeavesTheValuesTheSpecGives : Prop :=
  (∀ s, s = State.reset ∨ (∃ u, hostOp .reset u = .next s) →
    s.enc.phase = 0 ∧ s.dec.phase = 0 ∧ status .enc s = .idle ∧ status .dec s = .idle ∧
    s.enc.err = 0 ∧ s.dec.err = 0 ∧ s.enc.errInfo = 0 ∧ s.dec.errInfo = 0 ∧
    s.enc.eos = false ∧ s.enc.diagV = false ∧ s.dec.diagV = false ∧ s.dec.outLen = 0 ∧ s.dec.outCh = 0 ∧
    s.opusEnc.inst = none ∧ s.opusDec.inst = none ∧ s.pcmOut = []) ∧
  (∀ u, ∃ s, hostOp .reset u = .next s ∧ s.oggWr.accepted = u.oggWr.accepted)

/-- A host write of ENC.N takes effect while ENC is not BUSY and is ignored while it is (10_state.md R16), and no host
operation other than RESET changes a register, an instance or the output of a pipeline that is BUSY. What a host can still do in
mid-command is replace the answers to come by ATTACH (log 23) and make what ENC reads of PCM_IN open by LOAD PCM_IN, which is
noted in the model's own field `raced` (log 10). -/
def Obligations.HostKeepsTheRegistersOfABusyPipeline : Prop :=
  (∀ (s : State) (v : BitVec 64),
    (status .enc s ≠ .busy → hostOp (.setN v) s = .next { s with enc := { s.enc with n := v } }) ∧
    (status .enc s = .busy → hostOp (.setN v) s = .next s)) ∧
  (∀ (op : HostOp) (s t : State), op ≠ .reset → hostOp op s = .next t →
    (status .enc s = .busy → ∃ r, t.enc = { s.enc with raced := r }) ∧
    t.dec = s.dec ∧ t.opusEnc.inst = s.opusEnc.inst ∧ t.opusDec.inst = s.opusDec.inst ∧ t.pcmOut = s.pcmOut ∧
    t.params = s.params)

/-- What the host's other operations do (30_encoding.md R76; 44_sequencing_and_access.md R182; 10_state.md R16; 60_exceptions.md
R208), each with nothing else changed. LOAD PCM_IN writes consecutive elements, and while ENC is BUSY notes their indices (log
10). ATTACH replaces a port's answers and clears its record (log 23). A supplied sample of RAND32 is queued (log 7). READ returns
the register and a read of PCM_OUT its element, widened with zeros (log 12); an element that PCM_OUT does not have is a fault
(log 34). WAIT ends when DONE_OUT is 1 and else stays first in the queue (log 32), and its own
reads of STATUS are not recorded (log 12). -/
def Obligations.HostOperationsDoWhatTheyName : Prop :=
  ∀ s : State,
    (∀ base elems, ∃ buf : Memory 16,
      (∀ a, Memory.read buf a =
        if base ≤ a ∧ a < base + elems.length then elems[a - base]? else Memory.read s.pcmIn a) ∧
      (status .enc s ≠ .busy → hostOp (.loadPcm base elems) s = .next { s with pcmIn := buf }) ∧
      (status .enc s = .busy → ∃ raced : List Nat,
        (∀ a, a ∈ raced ↔ (base ≤ a ∧ a < base + elems.length) ∨ a ∈ s.enc.raced) ∧
        hostOp (.loadPcm base elems) s = .next { s with
          pcmIn := buf, enc := { s.enc with raced := raced }, freeCount := s.freeCount + 1 })) ∧
    (∀ x, hostOp (.attachOpusEnc x) s = .next { s with opusEnc := { s.opusEnc with script := x, sent := [] } }) ∧
    (∀ x, hostOp (.attachOpusDec x) s = .next { s with opusDec := { s.opusDec with script := x, sent := [] } }) ∧
    (∀ x, hostOp (.attachOggRd x) s = .next { s with oggRd := ⟨x, 0⟩ }) ∧
    (∀ x, hostOp (.attachOggWr x) s = .next { s with oggWr := ⟨x, [], []⟩ }) ∧
    (∀ v, hostOp (.supplyRand v) s = .next { s with randIn := s.randIn ++ [v] }) ∧
    (∀ r v, (r, v) ∈ [(HostReg.status .enc, (status .enc s).code.toNat), (.status .dec, (status .dec s).code.toNat),
        (.err .enc, s.enc.err.toNat), (.err .dec, s.dec.err.toNat),
        (.errInfo .enc, s.enc.errInfo.toNat), (.errInfo .dec, s.dec.errInfo.toNat),
        (.diag .enc, s.enc.diag.toNat), (.diag .dec, s.dec.diag.toNat),
        (.diagV .enc, s.enc.diagV.toNat), (.diagV .dec, s.dec.diagV.toNat),
        (.doneOut .enc, (doneOut .enc s).toNat), (.doneOut .dec, (doneOut .dec s).toNat),
        (.encN, s.enc.n.toNat), (.encEos, s.enc.eos.toNat),
        (.decOutLen, s.dec.outLen.toNat), (.decOutCh, s.dec.outCh.toNat)] →
      ∃ out : BitVec 64, out.toNat = v ∧ hostOp (.read r) s = .next { s with readOut := out }) ∧
    (∀ i v, Memory.read s.pcmOut i = some v →
      ∃ out : BitVec 64, out.toNat = v.toNat ∧ hostOp (.readPcmOut i) s = .next { s with readOut := out }) ∧
    (∀ i, Memory.read s.pcmOut i = none → hostOp (.readPcmOut i) s = .fault (.noSuchOutput i)) ∧
    (∀ p, doneOut p s = true → hostOp (.wait p) s = .next s) ∧
    (∀ p, doneOut p s = false → hostOp (.wait p) s = .next { s with inputs := .wait p :: s.inputs })

/-- What leaves rest (60_exceptions.md R206, R208; 30_encoding.md R62, R63): in a sound state, a pipeline that is IDLE, DONE or
in ERROR changes its phase in a step only when the host takes a command word for that pipeline or RESET from its queue (the
queue is the model's, log 1). -/
def Obligations.OnlyACommandOrResetLeavesRest : Prop :=
  ∀ s t : State, Inv s → step s = .next t →
    (status .enc s ≠ .busy → t.enc.phase ≠ s.enc.phase →
      (nextAgent s).1 = .host ∧ ∃ op rest, s.inputs = op :: rest ∧ ((∃ w, op = .encCmd w) ∨ op = .reset)) ∧
    (status .dec s ≠ .busy → t.dec.phase ≠ s.dec.phase →
      (nextAgent s).1 = .host ∧ ∃ op rest, s.inputs = op :: rest ∧ ((∃ w, op = .decCmd w) ∨ op = .reset))

/-! ### Independence of the pipelines -/

/-- The two pipelines share no state (60_exceptions.md R215, 20_memory.md R48 (d)): an instruction of ENC leaves every
register, buffer and port of DEC, one of DEC leaves every register, buffer and port of ENC, and neither touches the
parameters, the host's queue or the schedule. -/
def Obligations.PipelinesShareNoState : Prop :=
  ∀ (i : Instr) (s t : State), exec i s = .next t →
    (pipeOf i = some .enc → t.dec = s.dec ∧ t.opusDec = s.opusDec ∧ t.oggRd = s.oggRd ∧ t.pcmOut = s.pcmOut ∧
      t.pcmIn = s.pcmIn ∧ t.params = s.params ∧ t.inputs = s.inputs ∧ t.sched = s.sched ∧ t.convOut = s.convOut ∧
      t.readOut = s.readOut) ∧
    (pipeOf i = some .dec → t.enc = s.enc ∧ t.opusEnc = s.opusEnc ∧ t.oggWr = s.oggWr ∧ t.pcmIn = s.pcmIn ∧
      t.params = s.params ∧ t.randIn = s.randIn ∧ t.freeCount = s.freeCount ∧ t.inputs = s.inputs ∧
      t.sched = s.sched ∧ t.convOut = s.convOut ∧ t.readOut = s.readOut)

/-- The order of a step of ENC and a step of DEC does not matter (60_exceptions.md R215): an instruction of ENC and one of
DEC, run in either order, give the same state. -/
def Obligations.PipelineStepsCommute : Prop :=
  ∀ (i j : Instr) (s t u : State), pipeOf i = some .enc → pipeOf j = some .dec → exec i s = .next t → exec j s = .next u →
    ∃ v, exec j t = .next v ∧ exec i u = .next v

/-! ### Invariants -/

/-- Every step keeps the data sound: canonical memories within their capacities, legal codes, no codec instance and no pending
action outside an invocation. -/
def Obligations.EveryStepKeepsTheDataSound : Prop :=
  ∀ s t : State, Inv s → step s = .next t → Inv t

/-- The reset state is sound. Where this needs a value that 10_state.md R30 leaves unspecified (a channel count, a pending
action), it is the model's (logs 3 and 5). -/
def Obligations.ResetStateIsSound : Prop :=
  Inv State.reset ∧ TimelineInv State.reset.enc ∧ OutputInv State.reset

/-- Every step keeps the encoder's timeline: what ENC's registers say of rate, channels, total, indices and position in each
phase (43_encode.md R161 to R172). -/
def Obligations.EveryStepKeepsTheTimeline : Prop :=
  ∀ s t : State, TimelineInv s.enc → step s = .next t → TimelineInv t.enc

/-- Every step keeps DEC's output: PCM_OUT holds exactly the elements below OUTLEN, and OUTLEN is a multiple of CH
(42_decode.md R142 (a)), from a state whose OUTLEN is far from the end of 64 bits. -/
def Obligations.EveryStepKeepsTheOutputWhole : Prop :=
  ∀ s t : State, OutputInv s → s.dec.outLen.toNat < 9223372036854775808 → step s = .next t → OutputInv t
end

