-- ==== Sys2Proof/Laws/Decode.lean ====
section
/-! SUPPORT. The fields of an encoded command word and the bytes of an encoded packet field, once. -/

namespace Sys2Proof

/-- A command word as a number (30_encoding.md R60). -/
theorem cmdWord_toNat (op ch : BitVec 8) (rate : BitVec 32) :
    (0#16 ++ rate ++ ch ++ op : BitVec 64).toNat = rate.toNat * 65536 + ch.toNat * 256 + op.toNat := by
  have h1 := op.isLt
  have h2 := ch.isLt
  simp only [BitVec.toNat_append, BitVec.toNat_ofNat, Nat.zero_mod, Nat.zero_shiftLeft, Nat.zero_or]
  rw [← Nat.shiftLeft_add_eq_or_of_lt h2, ← Nat.shiftLeft_add_eq_or_of_lt h1]
  simp only [Nat.shiftLeft_eq]
  omega

theorem cmdWord_op (op ch : BitVec 8) (rate : BitVec 32) :
    (0#16 ++ rate ++ ch ++ op : BitVec 64).extractLsb' 0 8 = op := by
  apply BitVec.eq_of_toNat_eq
  rw [BitVec.extractLsb'_toNat, cmdWord_toNat, Nat.shiftRight_zero]
  have := op.isLt
  omega

theorem cmdWord_ch (op ch : BitVec 8) (rate : BitVec 32) :
    (0#16 ++ rate ++ ch ++ op : BitVec 64).extractLsb' 8 8 = ch := by
  apply BitVec.eq_of_toNat_eq
  rw [BitVec.extractLsb'_toNat, cmdWord_toNat, Nat.shiftRight_eq_div_pow]
  have h1 := op.isLt
  have h2 := ch.isLt
  omega

theorem cmdWord_rate (op ch : BitVec 8) (rate : BitVec 32) :
    (0#16 ++ rate ++ ch ++ op : BitVec 64).extractLsb' 16 32 = rate := by
  apply BitVec.eq_of_toNat_eq
  rw [BitVec.extractLsb'_toNat, cmdWord_toNat, Nat.shiftRight_eq_div_pow]
  have h1 := op.isLt
  have h2 := ch.isLt
  have h3 := rate.isLt
  omega

theorem cmdWord_rsv (op ch : BitVec 8) (rate : BitVec 32) :
    (0#16 ++ rate ++ ch ++ op : BitVec 64).extractLsb' 48 16 = 0 := by
  apply BitVec.eq_of_toNat_eq
  rw [BitVec.extractLsb'_toNat, cmdWord_toNat, Nat.shiftRight_eq_div_pow]
  have h1 := op.isLt
  have h2 := ch.isLt
  have h3 := rate.isLt
  show _ = 0
  omega

/-- Two bytes, lower first, as a number. -/
theorem le16_toNat (b0 b1 : Byte) : (le16 b0 b1).toNat = b0.toNat + 256 * b1.toNat := by
  have h0 := b0.isLt
  simp only [le16, BitVec.toNat_append]
  rw [← Nat.shiftLeft_add_eq_or_of_lt h0, Nat.shiftLeft_eq]
  omega

/-- Four bytes, lowest first, as a number. -/
theorem le32_toNat (b0 b1 b2 b3 : Byte) :
    (le32 b0 b1 b2 b3).toNat = b0.toNat + 256 * b1.toNat + 65536 * b2.toNat + 16777216 * b3.toNat := by
  have h0 := b0.isLt
  have h1 := b1.isLt
  have h2 := b2.isLt
  simp only [le32, BitVec.toNat_append]
  rw [← Nat.shiftLeft_add_eq_or_of_lt h2, ← Nat.shiftLeft_add_eq_or_of_lt h1, ← Nat.shiftLeft_add_eq_or_of_lt h0]
  simp only [Nat.shiftLeft_eq]
  omega

/-- The bytes of `putLe16`, read back. -/
theorem le16_put (v : BitVec 16) : le16 (v.extractLsb' 0 8) (v.extractLsb' 8 8) = v := by
  apply BitVec.eq_of_toNat_eq
  rw [le16_toNat]
  simp only [BitVec.extractLsb'_toNat, Nat.shiftRight_eq_div_pow]
  have := v.isLt
  omega

/-- The bytes of `putLe32`, read back. -/
theorem le32_put (v : BitVec 32) :
    le32 (v.extractLsb' 0 8) (v.extractLsb' 8 8) (v.extractLsb' 16 8) (v.extractLsb' 24 8) = v := by
  apply BitVec.eq_of_toNat_eq
  rw [le32_toNat]
  simp only [BitVec.extractLsb'_toNat, Nat.shiftRight_eq_div_pow]
  have := v.isLt
  omega

end Sys2Proof
end

