-- ==== Sys2Proof/Laws/Memory.lean ====
section
/-! SUPPORT. The laws of a space: a read after a write, a write elsewhere, the canonical form and the extent of what is
written, for single elements and for blocks. -/

namespace Sys2Proof.Machine

variable {w : Nat}

/-! ### One element -/

theorem Memory.read_write_same (m : Memory w) (a : Nat) (v : BitVec w) :
    Memory.read (Memory.write m a v) a = some v := by
  induction m with
  | nil => simp [Memory.write, Memory.read]
  | cons e rest ih =>
    obtain ⟨b, u⟩ := e
    simp only [Memory.write]
    split
    · simp [Memory.read]
    · split
      · simp [Memory.read]
      · rename_i h1 h2
        simp [Memory.read, ih, Ne.symm h2]

theorem Memory.read_write_other (m : Memory w) (a a' : Nat) (v : BitVec w) (h : a' ≠ a) :
    Memory.read (Memory.write m a v) a' = Memory.read m a' := by
  induction m with
  | nil => simp [Memory.write, Memory.read, Ne.symm h]
  | cons e rest ih =>
    obtain ⟨b, u⟩ := e
    simp only [Memory.write]
    split
    · simp [Memory.read, Ne.symm h]
    · split
      · rename_i h1 h2
        subst h2
        simp [Memory.read, Ne.symm h]
      · simp [Memory.read, ih]

/-- A read after a write of one element. -/
theorem Memory.read_write (m : Memory w) (a a' : Nat) (v : BitVec w) :
    Memory.read (Memory.write m a v) a' = if a' = a then some v else Memory.read m a' := by
  split
  · rename_i h
    subst h
    exact Memory.read_write_same m a' v
  · exact Memory.read_write_other m a a' v ‹_›

/-! ### The canonical form -/

/-- The canonical form of a list with a first element: the rest is canonical and lies above. -/
theorem Memory.wf_cons (a : Nat) (v : BitVec w) (rest : Memory w) :
    Memory.wf ((a, v) :: rest) = true ↔ Memory.wf rest = true ∧ ∀ e ∈ rest, a < e.1 := by
  induction rest generalizing a v with
  | nil => simp [Memory.wf]
  | cons e rest ih =>
    obtain ⟨b, u⟩ := e
    simp only [Memory.wf, Bool.and_eq_true, decide_eq_true_eq, List.mem_cons, forall_eq_or_imp]
    constructor
    · rintro ⟨hab, h⟩
      exact ⟨h, hab, fun e he => lt_trans hab (((ih b u).1 h).2 e he)⟩
    · rintro ⟨h, hab, _⟩
      exact ⟨hab, h⟩

theorem Memory.mem_write (m : Memory w) (a : Nat) (v : BitVec w) (e : Nat × BitVec w)
    (h : e ∈ Memory.write m a v) : e = (a, v) ∨ e ∈ m := by
  induction m with
  | nil => simpa [Memory.write] using h
  | cons f rest ih =>
    obtain ⟨b, u⟩ := f
    simp only [Memory.write] at h
    split at h
    · simpa using h
    · split at h
      · rcases List.mem_cons.1 h with h | h
        · exact .inl h
        · exact .inr (List.mem_cons_of_mem _ h)
      · rcases List.mem_cons.1 h with h | h
        · exact .inr (h ▸ List.mem_cons_self)
        · rcases ih h with h | h
          · exact .inl h
          · exact .inr (List.mem_cons_of_mem _ h)

/-- A write keeps the canonical form. -/
theorem Memory.wf_write (m : Memory w) (a : Nat) (v : BitVec w) (h : Memory.wf m = true) :
    Memory.wf (Memory.write m a v) = true := by
  induction m with
  | nil => simp [Memory.write, Memory.wf]
  | cons f rest ih =>
    obtain ⟨b, u⟩ := f
    have hr := (Memory.wf_cons b u rest).1 h
    simp only [Memory.write]
    split
    · rename_i hab
      refine (Memory.wf_cons _ _ _).2 ⟨h, ?_⟩
      intro e he
      rcases List.mem_cons.1 he with he | he
      · subst he; exact hab
      · exact lt_trans hab (hr.2 e he)
    · split
      · rename_i _ hab
        subst hab
        exact (Memory.wf_cons _ _ _).2 hr
      · rename_i h1 h2
        refine (Memory.wf_cons _ _ _).2 ⟨ih hr.1, ?_⟩
        intro e he
        rcases Memory.mem_write rest a v e he with he | he
        · subst he; simp only; omega
        · exact hr.2 e he

/-! ### Blocks -/

/-- A read after a block write. -/
theorem Memory.read_writeBlock (m : Memory w) (a a' : Nat) (vs : List (BitVec w)) :
    Memory.read (Memory.writeBlock m a vs) a' =
      if a ≤ a' ∧ a' < a + vs.length then vs[a' - a]? else Memory.read m a' := by
  induction vs generalizing m a with
  | nil =>
    have : ¬ (a ≤ a' ∧ a' < a + ([] : List (BitVec w)).length) := by simp
    simp only [Memory.writeBlock, if_neg this]
  | cons v vs ih =>
    simp only [Memory.writeBlock, ih, Memory.read_write, List.length_cons]
    by_cases h1 : a + 1 ≤ a' ∧ a' < a + 1 + vs.length
    · have h2 : a ≤ a' ∧ a' < a + (vs.length + 1) := by omega
      have h3 : a' - a = (a' - (a + 1)) + 1 := by omega
      rw [if_pos h1, if_pos h2, h3, List.getElem?_cons_succ]
    · rw [if_neg h1]
      by_cases h4 : a' = a
      · subst h4
        simp
      · have h2 : ¬ (a ≤ a' ∧ a' < a + (vs.length + 1)) := by omega
        rw [if_neg h4, if_neg h2]

/-- A block write leaves every element outside the block. -/
theorem Memory.read_writeBlock_other (m : Memory w) (a a' : Nat) (vs : List (BitVec w))
    (h : a' < a ∨ a + vs.length ≤ a') : Memory.read (Memory.writeBlock m a vs) a' = Memory.read m a' := by
  rw [Memory.read_writeBlock, if_neg]
  omega

theorem Memory.wf_writeBlock (m : Memory w) (a : Nat) (vs : List (BitVec w)) (h : Memory.wf m = true) :
    Memory.wf (Memory.writeBlock m a vs) = true := by
  induction vs generalizing m a with
  | nil => exact h
  | cons v vs ih => exact ih _ _ (Memory.wf_write m a v h)

/-- Every element after a block write was there before or lies in the block. -/
theorem Memory.mem_writeBlock (m : Memory w) (a : Nat) (vs : List (BitVec w)) (e : Nat × BitVec w)
    (h : e ∈ Memory.writeBlock m a vs) : e ∈ m ∨ (a ≤ e.1 ∧ e.1 < a + vs.length) := by
  induction vs generalizing m a with
  | nil => exact .inl h
  | cons v vs ih =>
    rcases ih _ _ h with h | h
    · rcases Memory.mem_write m a v e h with h | h
      · subst h; right; simp
      · exact .inl h
    · right; simp only [List.length_cons]; omega

@[simp] theorem Memory.length_readBlock (free : Nat → BitVec w) (m : Memory w) (a n : Nat) :
    (Memory.readBlock free m a n).length = n := by
  induction n generalizing a with
  | zero => rfl
  | succ n ih => simp [Memory.readBlock, ih]

/-- The elements of a block read, one by one. -/
theorem Memory.getElem?_readBlock (free : Nat → BitVec w) (m : Memory w) (a n i : Nat) (h : i < n) :
    (Memory.readBlock free m a n)[i]? = some ((Memory.read m (a + i)).getD (free (a + i))) := by
  induction n generalizing a i with
  | zero => omega
  | succ n ih =>
    cases i with
    | zero => simp [Memory.readBlock]
    | succ i =>
      have := ih (a + 1) i (by omega)
      simpa [Memory.readBlock, Nat.add_assoc, Nat.add_comm 1 i] using this

/-- Reading back a block that has just been written. -/
theorem Memory.readBlock_writeBlock (free : Nat → BitVec w) (m : Memory w) (a : Nat) (vs : List (BitVec w)) :
    Memory.readBlock free (Memory.writeBlock m a vs) a vs.length = vs := by
  apply List.ext_getElem?
  intro i
  by_cases h : i < vs.length
  · rw [Memory.getElem?_readBlock _ _ _ _ _ h, Memory.read_writeBlock, if_pos (by omega)]
    simp [h]
  · rw [List.getElem?_eq_none (by simpa using h), List.getElem?_eq_none (by simpa using h)]

/-! ### The canonical form -/

/-- An index below every listed one reads as unwritten. -/
theorem Memory.read_below (m : Memory w) (a : Nat) (h : ∀ e ∈ m, a < e.1) : Memory.read m a = none := by
  induction m with
  | nil => rfl
  | cons e rest ih =>
    obtain ⟨b, v⟩ := e
    have hb := h (b, v) (List.mem_cons_self ..)
    rw [Memory.read, if_neg (by simp only at hb; omega)]
    exact ih (fun e he => h e (List.mem_cons_of_mem _ he))

/-- Two spaces in canonical form that read alike at every index are equal. -/
theorem Memory.eq_of_read_eq (m n : Memory w) (hm : Memory.wf m = true) (hn : Memory.wf n = true)
    (h : ∀ a, Memory.read m a = Memory.read n a) : m = n := by
  induction m generalizing n with
  | nil =>
    cases n with
    | nil => rfl
    | cons f rest =>
      have := h f.1
      simp [Memory.read] at this
  | cons e rest ih =>
    obtain ⟨a, v⟩ := e
    obtain ⟨hm1, hm2⟩ := (Memory.wf_cons a v rest).1 hm
    cases n with
    | nil =>
      have := h a
      simp [Memory.read] at this
    | cons f rest' =>
      obtain ⟨b, u⟩ := f
      obtain ⟨hn1, hn2⟩ := (Memory.wf_cons b u rest').1 hn
      have hab : a = b := by
        rcases Nat.lt_trichotomy a b with hlt | heq | hlt
        · have h1 := h a
          rw [Memory.read, if_pos rfl, Memory.read_below ((b, u) :: rest') a] at h1
          · cases h1
          · intro e he
            rcases List.mem_cons.1 he with rfl | he
            · exact hlt
            · exact hlt.trans (hn2 e he)
        · exact heq
        · have h1 := h b
          rw [Memory.read_below ((a, v) :: rest) b, Memory.read, if_pos rfl] at h1
          · cases h1
          · intro e he
            rcases List.mem_cons.1 he with rfl | he
            · exact hlt
            · exact hlt.trans (hm2 e he)
      subst hab
      have hvu : v = u := by
        have h1 := h a
        rw [Memory.read, if_pos rfl, Memory.read, if_pos rfl] at h1
        exact Option.some.inj h1
      subst hvu
      refine congrArg _ (ih rest' hm1 hn1 (fun x => ?_))
      by_cases hx : x = a
      · subst hx
        rw [Memory.read_below rest x hm2, Memory.read_below rest' x hn2]
      · have h1 := h x
        rwa [Memory.read, if_neg (Ne.symm hx), Memory.read, if_neg (Ne.symm hx)] at h1

/-- Every space of the reset state is in canonical form. -/
theorem State.reset_memories_wf :
    Memory.wf State.reset.pcmIn = true ∧ Memory.wf State.reset.pcmOut = true ∧
      Memory.wf State.reset.enc.frameBuf = true ∧ Memory.wf State.reset.enc.pktBuf = true ∧
      Memory.wf State.reset.dec.pktIn = true ∧ Memory.wf State.reset.dec.scratch = true := by
  decide

end Sys2Proof.Machine
end

