-- ==== Sys2Proof/Laws/State.lean ====
section
/-! SUPPORT. One lemma per field per update of State, true by rfl, so that no later proof unfolds an update. -/

namespace Sys2Proof.Machine

section
variable (s : State) (x : Enc)
@[simp] theorem State.withEnc_enc : (s.withEnc x).enc = x := rfl
@[simp] theorem State.withEnc_dec : (s.withEnc x).dec = s.dec := rfl
@[simp] theorem State.withEnc_pcmIn : (s.withEnc x).pcmIn = s.pcmIn := rfl
@[simp] theorem State.withEnc_pcmOut : (s.withEnc x).pcmOut = s.pcmOut := rfl
@[simp] theorem State.withEnc_opusEnc : (s.withEnc x).opusEnc = s.opusEnc := rfl
@[simp] theorem State.withEnc_opusDec : (s.withEnc x).opusDec = s.opusDec := rfl
@[simp] theorem State.withEnc_oggRd : (s.withEnc x).oggRd = s.oggRd := rfl
@[simp] theorem State.withEnc_oggWr : (s.withEnc x).oggWr = s.oggWr := rfl
@[simp] theorem State.withEnc_params : (s.withEnc x).params = s.params := rfl
@[simp] theorem State.withEnc_randIn : (s.withEnc x).randIn = s.randIn := rfl
@[simp] theorem State.withEnc_freeCount : (s.withEnc x).freeCount = s.freeCount := rfl
@[simp] theorem State.withEnc_inputs : (s.withEnc x).inputs = s.inputs := rfl
@[simp] theorem State.withEnc_sched : (s.withEnc x).sched = s.sched := rfl
@[simp] theorem State.withEnc_convOut : (s.withEnc x).convOut = s.convOut := rfl
@[simp] theorem State.withEnc_readOut : (s.withEnc x).readOut = s.readOut := rfl
end

section
variable (s : State) (x : Dec)
@[simp] theorem State.withDec_enc : (s.withDec x).enc = s.enc := rfl
@[simp] theorem State.withDec_dec : (s.withDec x).dec = x := rfl
@[simp] theorem State.withDec_pcmIn : (s.withDec x).pcmIn = s.pcmIn := rfl
@[simp] theorem State.withDec_pcmOut : (s.withDec x).pcmOut = s.pcmOut := rfl
@[simp] theorem State.withDec_opusEnc : (s.withDec x).opusEnc = s.opusEnc := rfl
@[simp] theorem State.withDec_opusDec : (s.withDec x).opusDec = s.opusDec := rfl
@[simp] theorem State.withDec_oggRd : (s.withDec x).oggRd = s.oggRd := rfl
@[simp] theorem State.withDec_oggWr : (s.withDec x).oggWr = s.oggWr := rfl
@[simp] theorem State.withDec_params : (s.withDec x).params = s.params := rfl
@[simp] theorem State.withDec_randIn : (s.withDec x).randIn = s.randIn := rfl
@[simp] theorem State.withDec_freeCount : (s.withDec x).freeCount = s.freeCount := rfl
@[simp] theorem State.withDec_inputs : (s.withDec x).inputs = s.inputs := rfl
@[simp] theorem State.withDec_sched : (s.withDec x).sched = s.sched := rfl
@[simp] theorem State.withDec_convOut : (s.withDec x).convOut = s.convOut := rfl
@[simp] theorem State.withDec_readOut : (s.withDec x).readOut = s.readOut := rfl
end

section
variable (s : State) (x : Memory 16)
@[simp] theorem State.withPcmIn_enc : (s.withPcmIn x).enc = s.enc := rfl
@[simp] theorem State.withPcmIn_dec : (s.withPcmIn x).dec = s.dec := rfl
@[simp] theorem State.withPcmIn_pcmIn : (s.withPcmIn x).pcmIn = x := rfl
@[simp] theorem State.withPcmIn_pcmOut : (s.withPcmIn x).pcmOut = s.pcmOut := rfl
@[simp] theorem State.withPcmIn_opusEnc : (s.withPcmIn x).opusEnc = s.opusEnc := rfl
@[simp] theorem State.withPcmIn_opusDec : (s.withPcmIn x).opusDec = s.opusDec := rfl
@[simp] theorem State.withPcmIn_oggRd : (s.withPcmIn x).oggRd = s.oggRd := rfl
@[simp] theorem State.withPcmIn_oggWr : (s.withPcmIn x).oggWr = s.oggWr := rfl
@[simp] theorem State.withPcmIn_params : (s.withPcmIn x).params = s.params := rfl
@[simp] theorem State.withPcmIn_randIn : (s.withPcmIn x).randIn = s.randIn := rfl
@[simp] theorem State.withPcmIn_freeCount : (s.withPcmIn x).freeCount = s.freeCount := rfl
@[simp] theorem State.withPcmIn_inputs : (s.withPcmIn x).inputs = s.inputs := rfl
@[simp] theorem State.withPcmIn_sched : (s.withPcmIn x).sched = s.sched := rfl
@[simp] theorem State.withPcmIn_convOut : (s.withPcmIn x).convOut = s.convOut := rfl
@[simp] theorem State.withPcmIn_readOut : (s.withPcmIn x).readOut = s.readOut := rfl
end

section
variable (s : State) (x : Memory 16)
@[simp] theorem State.withPcmOut_enc : (s.withPcmOut x).enc = s.enc := rfl
@[simp] theorem State.withPcmOut_dec : (s.withPcmOut x).dec = s.dec := rfl
@[simp] theorem State.withPcmOut_pcmIn : (s.withPcmOut x).pcmIn = s.pcmIn := rfl
@[simp] theorem State.withPcmOut_pcmOut : (s.withPcmOut x).pcmOut = x := rfl
@[simp] theorem State.withPcmOut_opusEnc : (s.withPcmOut x).opusEnc = s.opusEnc := rfl
@[simp] theorem State.withPcmOut_opusDec : (s.withPcmOut x).opusDec = s.opusDec := rfl
@[simp] theorem State.withPcmOut_oggRd : (s.withPcmOut x).oggRd = s.oggRd := rfl
@[simp] theorem State.withPcmOut_oggWr : (s.withPcmOut x).oggWr = s.oggWr := rfl
@[simp] theorem State.withPcmOut_params : (s.withPcmOut x).params = s.params := rfl
@[simp] theorem State.withPcmOut_randIn : (s.withPcmOut x).randIn = s.randIn := rfl
@[simp] theorem State.withPcmOut_freeCount : (s.withPcmOut x).freeCount = s.freeCount := rfl
@[simp] theorem State.withPcmOut_inputs : (s.withPcmOut x).inputs = s.inputs := rfl
@[simp] theorem State.withPcmOut_sched : (s.withPcmOut x).sched = s.sched := rfl
@[simp] theorem State.withPcmOut_convOut : (s.withPcmOut x).convOut = s.convOut := rfl
@[simp] theorem State.withPcmOut_readOut : (s.withPcmOut x).readOut = s.readOut := rfl
end

section
variable (s : State) (x : OpusEnc)
@[simp] theorem State.withOpusEnc_enc : (s.withOpusEnc x).enc = s.enc := rfl
@[simp] theorem State.withOpusEnc_dec : (s.withOpusEnc x).dec = s.dec := rfl
@[simp] theorem State.withOpusEnc_pcmIn : (s.withOpusEnc x).pcmIn = s.pcmIn := rfl
@[simp] theorem State.withOpusEnc_pcmOut : (s.withOpusEnc x).pcmOut = s.pcmOut := rfl
@[simp] theorem State.withOpusEnc_opusEnc : (s.withOpusEnc x).opusEnc = x := rfl
@[simp] theorem State.withOpusEnc_opusDec : (s.withOpusEnc x).opusDec = s.opusDec := rfl
@[simp] theorem State.withOpusEnc_oggRd : (s.withOpusEnc x).oggRd = s.oggRd := rfl
@[simp] theorem State.withOpusEnc_oggWr : (s.withOpusEnc x).oggWr = s.oggWr := rfl
@[simp] theorem State.withOpusEnc_params : (s.withOpusEnc x).params = s.params := rfl
@[simp] theorem State.withOpusEnc_randIn : (s.withOpusEnc x).randIn = s.randIn := rfl
@[simp] theorem State.withOpusEnc_freeCount : (s.withOpusEnc x).freeCount = s.freeCount := rfl
@[simp] theorem State.withOpusEnc_inputs : (s.withOpusEnc x).inputs = s.inputs := rfl
@[simp] theorem State.withOpusEnc_sched : (s.withOpusEnc x).sched = s.sched := rfl
@[simp] theorem State.withOpusEnc_convOut : (s.withOpusEnc x).convOut = s.convOut := rfl
@[simp] theorem State.withOpusEnc_readOut : (s.withOpusEnc x).readOut = s.readOut := rfl
end

section
variable (s : State) (x : OpusDec)
@[simp] theorem State.withOpusDec_enc : (s.withOpusDec x).enc = s.enc := rfl
@[simp] theorem State.withOpusDec_dec : (s.withOpusDec x).dec = s.dec := rfl
@[simp] theorem State.withOpusDec_pcmIn : (s.withOpusDec x).pcmIn = s.pcmIn := rfl
@[simp] theorem State.withOpusDec_pcmOut : (s.withOpusDec x).pcmOut = s.pcmOut := rfl
@[simp] theorem State.withOpusDec_opusEnc : (s.withOpusDec x).opusEnc = s.opusEnc := rfl
@[simp] theorem State.withOpusDec_opusDec : (s.withOpusDec x).opusDec = x := rfl
@[simp] theorem State.withOpusDec_oggRd : (s.withOpusDec x).oggRd = s.oggRd := rfl
@[simp] theorem State.withOpusDec_oggWr : (s.withOpusDec x).oggWr = s.oggWr := rfl
@[simp] theorem State.withOpusDec_params : (s.withOpusDec x).params = s.params := rfl
@[simp] theorem State.withOpusDec_randIn : (s.withOpusDec x).randIn = s.randIn := rfl
@[simp] theorem State.withOpusDec_freeCount : (s.withOpusDec x).freeCount = s.freeCount := rfl
@[simp] theorem State.withOpusDec_inputs : (s.withOpusDec x).inputs = s.inputs := rfl
@[simp] theorem State.withOpusDec_sched : (s.withOpusDec x).sched = s.sched := rfl
@[simp] theorem State.withOpusDec_convOut : (s.withOpusDec x).convOut = s.convOut := rfl
@[simp] theorem State.withOpusDec_readOut : (s.withOpusDec x).readOut = s.readOut := rfl
end

section
variable (s : State) (x : OggRd)
@[simp] theorem State.withOggRd_enc : (s.withOggRd x).enc = s.enc := rfl
@[simp] theorem State.withOggRd_dec : (s.withOggRd x).dec = s.dec := rfl
@[simp] theorem State.withOggRd_pcmIn : (s.withOggRd x).pcmIn = s.pcmIn := rfl
@[simp] theorem State.withOggRd_pcmOut : (s.withOggRd x).pcmOut = s.pcmOut := rfl
@[simp] theorem State.withOggRd_opusEnc : (s.withOggRd x).opusEnc = s.opusEnc := rfl
@[simp] theorem State.withOggRd_opusDec : (s.withOggRd x).opusDec = s.opusDec := rfl
@[simp] theorem State.withOggRd_oggRd : (s.withOggRd x).oggRd = x := rfl
@[simp] theorem State.withOggRd_oggWr : (s.withOggRd x).oggWr = s.oggWr := rfl
@[simp] theorem State.withOggRd_params : (s.withOggRd x).params = s.params := rfl
@[simp] theorem State.withOggRd_randIn : (s.withOggRd x).randIn = s.randIn := rfl
@[simp] theorem State.withOggRd_freeCount : (s.withOggRd x).freeCount = s.freeCount := rfl
@[simp] theorem State.withOggRd_inputs : (s.withOggRd x).inputs = s.inputs := rfl
@[simp] theorem State.withOggRd_sched : (s.withOggRd x).sched = s.sched := rfl
@[simp] theorem State.withOggRd_convOut : (s.withOggRd x).convOut = s.convOut := rfl
@[simp] theorem State.withOggRd_readOut : (s.withOggRd x).readOut = s.readOut := rfl
end

section
variable (s : State) (x : OggWr)
@[simp] theorem State.withOggWr_enc : (s.withOggWr x).enc = s.enc := rfl
@[simp] theorem State.withOggWr_dec : (s.withOggWr x).dec = s.dec := rfl
@[simp] theorem State.withOggWr_pcmIn : (s.withOggWr x).pcmIn = s.pcmIn := rfl
@[simp] theorem State.withOggWr_pcmOut : (s.withOggWr x).pcmOut = s.pcmOut := rfl
@[simp] theorem State.withOggWr_opusEnc : (s.withOggWr x).opusEnc = s.opusEnc := rfl
@[simp] theorem State.withOggWr_opusDec : (s.withOggWr x).opusDec = s.opusDec := rfl
@[simp] theorem State.withOggWr_oggRd : (s.withOggWr x).oggRd = s.oggRd := rfl
@[simp] theorem State.withOggWr_oggWr : (s.withOggWr x).oggWr = x := rfl
@[simp] theorem State.withOggWr_params : (s.withOggWr x).params = s.params := rfl
@[simp] theorem State.withOggWr_randIn : (s.withOggWr x).randIn = s.randIn := rfl
@[simp] theorem State.withOggWr_freeCount : (s.withOggWr x).freeCount = s.freeCount := rfl
@[simp] theorem State.withOggWr_inputs : (s.withOggWr x).inputs = s.inputs := rfl
@[simp] theorem State.withOggWr_sched : (s.withOggWr x).sched = s.sched := rfl
@[simp] theorem State.withOggWr_convOut : (s.withOggWr x).convOut = s.convOut := rfl
@[simp] theorem State.withOggWr_readOut : (s.withOggWr x).readOut = s.readOut := rfl
end

section
variable (s : State) (x : List (BitVec 32))
@[simp] theorem State.withRandIn_enc : (s.withRandIn x).enc = s.enc := rfl
@[simp] theorem State.withRandIn_dec : (s.withRandIn x).dec = s.dec := rfl
@[simp] theorem State.withRandIn_pcmIn : (s.withRandIn x).pcmIn = s.pcmIn := rfl
@[simp] theorem State.withRandIn_pcmOut : (s.withRandIn x).pcmOut = s.pcmOut := rfl
@[simp] theorem State.withRandIn_opusEnc : (s.withRandIn x).opusEnc = s.opusEnc := rfl
@[simp] theorem State.withRandIn_opusDec : (s.withRandIn x).opusDec = s.opusDec := rfl
@[simp] theorem State.withRandIn_oggRd : (s.withRandIn x).oggRd = s.oggRd := rfl
@[simp] theorem State.withRandIn_oggWr : (s.withRandIn x).oggWr = s.oggWr := rfl
@[simp] theorem State.withRandIn_params : (s.withRandIn x).params = s.params := rfl
@[simp] theorem State.withRandIn_randIn : (s.withRandIn x).randIn = x := rfl
@[simp] theorem State.withRandIn_freeCount : (s.withRandIn x).freeCount = s.freeCount := rfl
@[simp] theorem State.withRandIn_inputs : (s.withRandIn x).inputs = s.inputs := rfl
@[simp] theorem State.withRandIn_sched : (s.withRandIn x).sched = s.sched := rfl
@[simp] theorem State.withRandIn_convOut : (s.withRandIn x).convOut = s.convOut := rfl
@[simp] theorem State.withRandIn_readOut : (s.withRandIn x).readOut = s.readOut := rfl
end

section
variable (s : State) (x : Nat)
@[simp] theorem State.withFreeCount_enc : (s.withFreeCount x).enc = s.enc := rfl
@[simp] theorem State.withFreeCount_dec : (s.withFreeCount x).dec = s.dec := rfl
@[simp] theorem State.withFreeCount_pcmIn : (s.withFreeCount x).pcmIn = s.pcmIn := rfl
@[simp] theorem State.withFreeCount_pcmOut : (s.withFreeCount x).pcmOut = s.pcmOut := rfl
@[simp] theorem State.withFreeCount_opusEnc : (s.withFreeCount x).opusEnc = s.opusEnc := rfl
@[simp] theorem State.withFreeCount_opusDec : (s.withFreeCount x).opusDec = s.opusDec := rfl
@[simp] theorem State.withFreeCount_oggRd : (s.withFreeCount x).oggRd = s.oggRd := rfl
@[simp] theorem State.withFreeCount_oggWr : (s.withFreeCount x).oggWr = s.oggWr := rfl
@[simp] theorem State.withFreeCount_params : (s.withFreeCount x).params = s.params := rfl
@[simp] theorem State.withFreeCount_randIn : (s.withFreeCount x).randIn = s.randIn := rfl
@[simp] theorem State.withFreeCount_freeCount : (s.withFreeCount x).freeCount = x := rfl
@[simp] theorem State.withFreeCount_inputs : (s.withFreeCount x).inputs = s.inputs := rfl
@[simp] theorem State.withFreeCount_sched : (s.withFreeCount x).sched = s.sched := rfl
@[simp] theorem State.withFreeCount_convOut : (s.withFreeCount x).convOut = s.convOut := rfl
@[simp] theorem State.withFreeCount_readOut : (s.withFreeCount x).readOut = s.readOut := rfl
end

section
variable (s : State) (x : List HostOp)
@[simp] theorem State.withInputs_enc : (s.withInputs x).enc = s.enc := rfl
@[simp] theorem State.withInputs_dec : (s.withInputs x).dec = s.dec := rfl
@[simp] theorem State.withInputs_pcmIn : (s.withInputs x).pcmIn = s.pcmIn := rfl
@[simp] theorem State.withInputs_pcmOut : (s.withInputs x).pcmOut = s.pcmOut := rfl
@[simp] theorem State.withInputs_opusEnc : (s.withInputs x).opusEnc = s.opusEnc := rfl
@[simp] theorem State.withInputs_opusDec : (s.withInputs x).opusDec = s.opusDec := rfl
@[simp] theorem State.withInputs_oggRd : (s.withInputs x).oggRd = s.oggRd := rfl
@[simp] theorem State.withInputs_oggWr : (s.withInputs x).oggWr = s.oggWr := rfl
@[simp] theorem State.withInputs_params : (s.withInputs x).params = s.params := rfl
@[simp] theorem State.withInputs_randIn : (s.withInputs x).randIn = s.randIn := rfl
@[simp] theorem State.withInputs_freeCount : (s.withInputs x).freeCount = s.freeCount := rfl
@[simp] theorem State.withInputs_inputs : (s.withInputs x).inputs = x := rfl
@[simp] theorem State.withInputs_sched : (s.withInputs x).sched = s.sched := rfl
@[simp] theorem State.withInputs_convOut : (s.withInputs x).convOut = s.convOut := rfl
@[simp] theorem State.withInputs_readOut : (s.withInputs x).readOut = s.readOut := rfl
end

section
variable (s : State) (x : List Agent)
@[simp] theorem State.withSched_enc : (s.withSched x).enc = s.enc := rfl
@[simp] theorem State.withSched_dec : (s.withSched x).dec = s.dec := rfl
@[simp] theorem State.withSched_pcmIn : (s.withSched x).pcmIn = s.pcmIn := rfl
@[simp] theorem State.withSched_pcmOut : (s.withSched x).pcmOut = s.pcmOut := rfl
@[simp] theorem State.withSched_opusEnc : (s.withSched x).opusEnc = s.opusEnc := rfl
@[simp] theorem State.withSched_opusDec : (s.withSched x).opusDec = s.opusDec := rfl
@[simp] theorem State.withSched_oggRd : (s.withSched x).oggRd = s.oggRd := rfl
@[simp] theorem State.withSched_oggWr : (s.withSched x).oggWr = s.oggWr := rfl
@[simp] theorem State.withSched_params : (s.withSched x).params = s.params := rfl
@[simp] theorem State.withSched_randIn : (s.withSched x).randIn = s.randIn := rfl
@[simp] theorem State.withSched_freeCount : (s.withSched x).freeCount = s.freeCount := rfl
@[simp] theorem State.withSched_inputs : (s.withSched x).inputs = s.inputs := rfl
@[simp] theorem State.withSched_sched : (s.withSched x).sched = x := rfl
@[simp] theorem State.withSched_convOut : (s.withSched x).convOut = s.convOut := rfl
@[simp] theorem State.withSched_readOut : (s.withSched x).readOut = s.readOut := rfl
end

section
variable (s : State) (x : ConvOut)
@[simp] theorem State.withConvOut_enc : (s.withConvOut x).enc = s.enc := rfl
@[simp] theorem State.withConvOut_dec : (s.withConvOut x).dec = s.dec := rfl
@[simp] theorem State.withConvOut_pcmIn : (s.withConvOut x).pcmIn = s.pcmIn := rfl
@[simp] theorem State.withConvOut_pcmOut : (s.withConvOut x).pcmOut = s.pcmOut := rfl
@[simp] theorem State.withConvOut_opusEnc : (s.withConvOut x).opusEnc = s.opusEnc := rfl
@[simp] theorem State.withConvOut_opusDec : (s.withConvOut x).opusDec = s.opusDec := rfl
@[simp] theorem State.withConvOut_oggRd : (s.withConvOut x).oggRd = s.oggRd := rfl
@[simp] theorem State.withConvOut_oggWr : (s.withConvOut x).oggWr = s.oggWr := rfl
@[simp] theorem State.withConvOut_params : (s.withConvOut x).params = s.params := rfl
@[simp] theorem State.withConvOut_randIn : (s.withConvOut x).randIn = s.randIn := rfl
@[simp] theorem State.withConvOut_freeCount : (s.withConvOut x).freeCount = s.freeCount := rfl
@[simp] theorem State.withConvOut_inputs : (s.withConvOut x).inputs = s.inputs := rfl
@[simp] theorem State.withConvOut_sched : (s.withConvOut x).sched = s.sched := rfl
@[simp] theorem State.withConvOut_convOut : (s.withConvOut x).convOut = x := rfl
@[simp] theorem State.withConvOut_readOut : (s.withConvOut x).readOut = s.readOut := rfl
end

section
variable (s : State) (x : BitVec 64)
@[simp] theorem State.withReadOut_enc : (s.withReadOut x).enc = s.enc := rfl
@[simp] theorem State.withReadOut_dec : (s.withReadOut x).dec = s.dec := rfl
@[simp] theorem State.withReadOut_pcmIn : (s.withReadOut x).pcmIn = s.pcmIn := rfl
@[simp] theorem State.withReadOut_pcmOut : (s.withReadOut x).pcmOut = s.pcmOut := rfl
@[simp] theorem State.withReadOut_opusEnc : (s.withReadOut x).opusEnc = s.opusEnc := rfl
@[simp] theorem State.withReadOut_opusDec : (s.withReadOut x).opusDec = s.opusDec := rfl
@[simp] theorem State.withReadOut_oggRd : (s.withReadOut x).oggRd = s.oggRd := rfl
@[simp] theorem State.withReadOut_oggWr : (s.withReadOut x).oggWr = s.oggWr := rfl
@[simp] theorem State.withReadOut_params : (s.withReadOut x).params = s.params := rfl
@[simp] theorem State.withReadOut_randIn : (s.withReadOut x).randIn = s.randIn := rfl
@[simp] theorem State.withReadOut_freeCount : (s.withReadOut x).freeCount = s.freeCount := rfl
@[simp] theorem State.withReadOut_inputs : (s.withReadOut x).inputs = s.inputs := rfl
@[simp] theorem State.withReadOut_sched : (s.withReadOut x).sched = s.sched := rfl
@[simp] theorem State.withReadOut_convOut : (s.withReadOut x).convOut = s.convOut := rfl
@[simp] theorem State.withReadOut_readOut : (s.withReadOut x).readOut = x := rfl
end

end Sys2Proof.Machine
end

