-- ==== Sys2Proof/Laws/Ops.lean ====
section
/-! SUPPORT. For each shared operation, what it can do, once. -/

namespace Sys2Proof.Machine

/-! ### Narrowing -/

theorem toU64_toNat (n : Nat) (h : n < 2 ^ 64) : (toU64 n).toNat = n := by
  rw [toU64, if_pos h, BitVec.toNat_ofNat, Nat.mod_eq_of_lt h]

theorem toU32_toNat (n : Nat) (h : n < 2 ^ 32) : (toU32 n).toNat = n := by
  rw [toU32, if_pos h, BitVec.toNat_ofNat, Nat.mod_eq_of_lt h]

theorem toU64_eq (n : Nat) (v : BitVec 64) (h : v.toNat = n) : toU64 n = v := by
  apply BitVec.eq_of_toNat_eq
  rw [h, toU64_toNat]
  omega

/-! ### Errors -/

/-- `raise` in ENC is entry to the error state and nothing else. -/
theorem raise_enc (e : ErrKind) (info : BitVec 32) (s : State) : raise .enc e info s = encRaised e.code info s := rfl

/-- `raise` in DEC is entry to the error state and nothing else. -/
theorem raise_dec (e : ErrKind) (info : BitVec 32) (s : State) : raise .dec e info s = decRaised e.code info s := rfl

/-! ### Scaling -/

/-- SCALE64 inside its domain. -/
theorem scale64_eq_some (v src dst r : Nat) :
    scale64 v src dst = some r ↔ src ≠ 0 ∧ v * dst < 2 ^ 64 ∧ r = v * dst / src := by
  unfold scale64
  split
  · rename_i h
    simp only [reduceCtorEq, false_iff, not_and]
    intro h1 h2
    omega
  · rename_i h
    rw [not_or] at h
    simp only [Option.some.injEq]
    constructor
    · rintro rfl; exact ⟨h.1, by omega, rfl⟩
    · rintro ⟨_, _, rfl⟩; rfl

/-- SCALE64 outside its domain. -/
theorem scale64_eq_none (v src dst : Nat) : scale64 v src dst = none ↔ src = 0 ∨ 2 ^ 64 ≤ v * dst := by
  unfold scale64
  split <;> simp_all

/-- SCALE16 inside its domain. -/
theorem scale16_eq_some (v src dst r : Nat) :
    scale16 v src dst = some r ↔ src ≠ 0 ∧ v * dst / src ≤ 65535 ∧ r = v * dst / src := by
  unfold scale16
  split
  · rename_i h
    simp only [reduceCtorEq, false_iff, not_and]
    intro h1 h2
    omega
  · rename_i h
    rw [not_or] at h
    simp only [Option.some.injEq]
    constructor
    · rintro rfl; exact ⟨h.1, by omega, rfl⟩
    · rintro ⟨_, _, rfl⟩; rfl

/-- SCALE16 outside its domain. -/
theorem scale16_eq_none (v src dst : Nat) : scale16 v src dst = none ↔ src = 0 ∨ 65535 < v * dst / src := by
  unfold scale16
  split <;> simp_all

/-- VALRATE accepts the five supported rates and no other. -/
theorem rateOk_iff (r : Nat) : rateOk r = true ↔ r ∈ [8000, 12000, 16000, 24000, 48000] := by
  simp [rateOk, Config.rates]

/-! ### The timeline -/

/-- The lookup of ENC in PCM_IN lies inside the input when TOTAL = N + SKIPSL. -/
theorem window_isSome (s : State) (p : Nat) (h : s.enc.total.toNat = s.enc.n.toNat + s.enc.skipSl.toNat) :
    (window s p).isSome = true := by
  unfold window
  split
  · rfl
  · split
    · rw [if_pos (by omega)]; rfl
    · rfl

/-- The loop of FRAMEFILL: it writes one window value per element, or stops at the first that has none. -/
theorem fillFrom_filled (s : State) (a n : Nat) (j : Nat) (m : Memory 16)
    (h : ∀ k < n, (window s (a + (j + k))).isSome = true) :
    ∃ m', fillFrom s a j m n = .filled m' ∧
      ∀ i, Memory.read m' i = if j ≤ i ∧ i < j + n then window s (a + i) else Memory.read m i := by
  induction n generalizing j m with
  | zero => exact ⟨m, rfl, fun i => by rw [if_neg]; omega⟩
  | succ n ih =>
    have h0 := h 0 (by omega)
    rw [Nat.add_zero] at h0
    obtain ⟨v, hv⟩ := Option.isSome_iff_exists.1 h0
    obtain ⟨m', hm, hr⟩ := ih (j + 1) (Memory.write m j v)
      (fun k hk => by rw [Nat.add_assoc, Nat.add_comm 1 k]; exact h (k + 1) (by omega))
    refine ⟨m', by rw [fillFrom, hv]; exact hm, fun i => ?_⟩
    rw [hr, Memory.read_write]
    by_cases h1 : j + 1 ≤ i ∧ i < j + 1 + n
    · rw [if_pos h1, if_pos (by omega)]
    · rw [if_neg h1]
      by_cases h2 : i = j
      · subst h2; rw [if_pos rfl, if_pos (by omega), hv]
      · rw [if_neg h2, if_neg (by omega)]

/-- The loop of FRAMEFILL stopped by an assertion: the first slot without a window value ends it, with the elements before that
slot written. -/
theorem fillFrom_assertFail (s : State) (a n : Nat) : ∀ (r j : Nat) (m : Memory 16), r < n →
    (∀ k < r, (window s (a + (j + k))).isSome = true) → window s (a + (j + r)) = none →
    ∃ m', fillFrom s a j m n = .assertFail m' ∧ 
      ∀ i, Memory.read m' i = if j ≤ i ∧ i < j + r then window s (a + i) else Memory.read m i := by
  induction n with
  | zero => intro r j m h; omega
  | succ n ih =>
    intro r j m h h1 h2
    cases r with
    | zero => 
      refine ⟨m, ?_, fun i => by rw [if_neg]; omega⟩
      rw [fillFrom]; simp only [Nat.add_zero] at h2; rw [h2]
    | succ r =>
      have h0 := h1 0 (by omega)
      rw [Nat.add_zero] at h0
      obtain ⟨v, hv⟩ := Option.isSome_iff_exists.1 h0
      obtain ⟨m', hm, hr⟩ := ih r (j + 1) (Memory.write m j v) (by omega)
        (fun k hk => by rw [Nat.add_assoc, Nat.add_comm 1 k]; exact h1 (k + 1) (by omega))
        (by rw [Nat.add_assoc, Nat.add_comm 1 r]; exact h2)
      refine ⟨m', by rw [fillFrom, hv]; exact hm, fun i => ?_⟩
      rw [hr, Memory.read_write]
      by_cases h1 : j + 1 ≤ i ∧ i < j + 1 + r
      · rw [if_pos h1, if_pos (by omega)]
      · rw [if_neg h1]
        by_cases h2 : i = j
        · subst h2; rw [if_pos rfl, if_pos (by omega), hv]
        · rw [if_neg h2, if_neg (by omega)]

/-- What the loop of FRAMEFILL leaves keeps the canonical form and touches only the frame's elements, however it
ends. -/
theorem fillFrom_sound (s : State) (a n : Nat) (j : Nat) (m m' : Memory 16) (hw : Memory.wf m = true)
    (h : fillFrom s a j m n = .filled m' ∨ fillFrom s a j m n = .assertFail m') :
    Memory.wf m' = true ∧ ∀ e ∈ m', e ∈ m ∨ e.1 < j + n := by
  induction n generalizing j m with
  | zero =>
    simp only [fillFrom, FillResult.filled.injEq, reduceCtorEq, or_false] at h
    subst h
    exact ⟨hw, fun e he => .inl he⟩
  | succ n ih =>
    rw [fillFrom] at h
    cases hv : window s (a + j) with
    | none =>
      simp only [hv, reduceCtorEq, FillResult.assertFail.injEq, false_or] at h
      subst h
      exact ⟨hw, fun e he => .inl he⟩
    | some v =>
      simp only [hv] at h
      obtain ⟨h1, h2⟩ := ih (j + 1) (Memory.write m j v) (Memory.wf_write m j v hw) h
      refine ⟨h1, fun e he => ?_⟩
      rcases h2 e he with he | he
      · rcases Memory.mem_write m j v e he with he | he
        · subst he; right; simp only; omega
        · exact .inl he
      · right; omega

/-- FRAMEFILL leaves an assertion, or a frame in ENC.FRAMEBUF to be encoded; only FRAMEBUF of the buffers changes. -/
theorem frameFill_cases (a slots : Nat) (s : State) :
    (1920 < slots ∧ frameFill a slots s = encRaised 5 0 s) ∨
    (slots ≤ 1920 ∧ ∃ m, fillFrom s a 0 s.enc.frameBuf slots = .filled m ∧
      frameFill a slots s = { s with enc := { s.enc with frameBuf := m, pend := .encode slots } }) ∨
    (slots ≤ 1920 ∧ ∃ m, fillFrom s a 0 s.enc.frameBuf slots = .assertFail m ∧
      frameFill a slots s = encRaised 5 0 { s with enc := { s.enc with frameBuf := m } }) := by
  unfold frameFill
  split
  · rename_i h
    exact .inl ⟨h, rfl⟩
  · rename_i h
    have h' : slots ≤ 1920 := by simpa [Config.frameBufCap] using h
    cases hf : fillFrom s a 0 s.enc.frameBuf slots with
    | filled m => exact .inr (.inl ⟨h', m, rfl, rfl⟩)
    | assertFail m => exact .inr (.inr ⟨h', m, rfl, rfl⟩)

/-- The granule position of E_TAIL and E_FINAL, by the unit KG. -/
theorem timelineGranule_eq (pos : Nat) (s : State) :
    timelineGranule pos s = if unitKg s.params.unitMode s.enc.ch.toNat = 0 then none
      else scale64 (pos / unitKg s.params.unitMode s.enc.ch.toNat) s.enc.rate.toNat 48000 := rfl

/-- The duration E_TAIL picks is one of the four and its frame fits. -/
theorem tailPick_eq_some (rate ch pos total d : Nat) (h : tailPick rate ch pos total = some d) :
    d ∈ tailDurations rate ∧ pos + d * ch ≤ total := by
  unfold tailPick at h
  exact ⟨List.mem_of_find?_eq_some h, by simpa using List.find?_some h⟩

/-- When E_TAIL picks nothing, no duration fits. -/
theorem tailPick_eq_none (rate ch pos total : Nat) (h : tailPick rate ch pos total = none) :
    ∀ d ∈ tailDurations rate, total < pos + d * ch := by
  intro d hd
  have := List.find?_eq_none.1 h d hd
  simpa using this

/-! ### Port transactions -/

/-- A read at OGGRD: DEC waits, raises IOFailure, does what exhaustion asks, or holds the packet. -/
theorem readNextPacket_cases (next : DecPend) (onExhausted : State → State) (s : State) :
    (s.oggRd.script = [] ∧ readNextPacket next onExhausted s = s) ∨
    (∃ reason rest, s.oggRd.script = .err reason :: rest ∧
      readNextPacket next onExhausted s = decRaised 4 reason { s with oggRd := ⟨rest, s.oggRd.reads + 1⟩ }) ∨
    (∃ rest, s.oggRd.script = .exhausted :: rest ∧
      readNextPacket next onExhausted s = onExhausted { s with oggRd := ⟨rest, s.oggRd.reads + 1⟩ }) ∨
    (∃ bytes gran last rest, s.oggRd.script = .packet bytes gran last :: rest ∧
      readNextPacket next onExhausted s = { s with
        oggRd := ⟨rest, s.oggRd.reads + 1⟩
        dec := { s.dec with pktIn := Memory.writeBlock [] 0 bytes, pktLen := toU32 bytes.length, pktGran := gran,
                            pktLast := last, pend := next } }) := by
  unfold readNextPacket
  split
  · exact .inl ⟨‹_›, rfl⟩
  · rename_i a rest heq
    cases a with
    | err reason => exact .inr (.inl ⟨reason, rest, heq, rfl⟩)
    | exhausted => exact .inr (.inr (.inl ⟨rest, heq, rfl⟩))
    | packet bytes gran last => exact .inr (.inr (.inr ⟨bytes, gran, last, rest, heq, rfl⟩))

/-- A write at OGGWR: ENC waits, raises IOFailure, or the packet is accepted and the phase goes on. -/
theorem emit_cases (marker : BitVec 2) (s : State) :
    (s.oggWr.script = [] ∧ emit marker s = s) ∨
    (∃ reason rest, s.oggWr.script = .err reason :: rest ∧
      emit marker s = encRaised 4 reason { s with
        oggWr := ⟨rest, s.oggWr.sent ++ [postedPacket marker s], s.oggWr.accepted⟩ }) ∨
    (∃ rest, s.oggWr.script = .ok () :: rest ∧
      emit marker s = afterWrite { s with
        enc := { s.enc with eos := if marker = Marker.endStream then true else s.enc.eos }
        oggWr := ⟨rest, s.oggWr.sent ++ [postedPacket marker s], s.oggWr.accepted ++ [postedPacket marker s]⟩ }) := by
  unfold emit
  split
  · exact .inl ⟨‹_›, rfl⟩
  · rename_i reason rest heq
    exact .inr (.inl ⟨reason, rest, heq, rfl⟩)
  · rename_i rest heq
    refine .inr (.inr ⟨rest, heq, ?_⟩)
    split <;> rfl

/-- The encode transaction: ENC waits, raises CodecFailure or AssertFail, asks for the final range, or goes on with the
compressed frame at the start of ENC.PKTBUF. -/
theorem encodeFrame_cases (post : Nat → Nat → State → State) (slots : Nat) (s : State) :
    (s.opusEnc.script.encode = [] ∧ encodeFrame post slots s = s) ∨
    (∃ a rest, s.opusEnc.script.encode = a :: rest ∧ ∃ asked : State,
      asked = opusEncDid
        (.encode (samplesAt .frameBuf s.enc.frameBuf 0 slots) (slots / s.enc.ch.toNat) Config.maxPacket)
        { s.opusEnc.script with encode := rest } s ∧
      ((∃ reason, a = .err reason ∧ encodeFrame post slots s = encRaised 3 reason asked) ∨
       (∃ bytes, a = .ok bytes ∧ 4000 < bytes.length ∧ encodeFrame post slots s = encRaised 5 0 asked) ∨
       (∃ bytes, a = .ok bytes ∧ bytes.length ≤ 4000 ∧ ∃ t : State,
        t = { asked with enc := { s.enc with pktBuf := Memory.writeBlock s.enc.pktBuf 0 bytes } } ∧
        ((s.params.diagEn = true ∧ encodeFrame post slots s = encPend (.range bytes.length slots) t) ∨
         (s.params.diagEn = false ∧ encodeFrame post slots s = post bytes.length slots t))))) := by
  unfold encodeFrame
  split
  · exact .inl ⟨‹_›, rfl⟩
  · rename_i a rest heq
    refine .inr ⟨a, rest, heq, _, rfl, ?_⟩
    cases a with
    | err reason => exact .inl ⟨reason, rfl, rfl⟩
    | ok bytes =>
      simp only
      split
      · rename_i h
        exact .inr (.inl ⟨bytes, rfl, h, rfl⟩)
      · rename_i h
        refine .inr (.inr ⟨bytes, rfl, by simpa [Config.maxPacket] using h, _, rfl, ?_⟩)
        cases s.params.diagEn
        · exact .inr ⟨rfl, rfl⟩
        · exact .inl ⟨rfl, rfl⟩

/-- The final_range transaction of ENC: it waits, or stores the value and goes on. -/
theorem encodeRange_cases (post : Nat → Nat → State → State) (len slots : Nat) (s : State) :
    (s.opusEnc.script.range = [] ∧ encodeRange post len slots s = s) ∨
    (∃ v rest, s.opusEnc.script.range = v :: rest ∧
      encodeRange post len slots s = post len slots { s with
        enc := { s.enc with diag := v, diagV := true }
        opusEnc := { s.opusEnc with
          script := { s.opusEnc.script with range := rest }, sent := s.opusEnc.sent ++ [.finalRange] } }) := by
  unfold encodeRange
  split
  · exact .inl ⟨‹_›, rfl⟩
  · exact .inr ⟨_, _, ‹_›, rfl⟩

/-- An audio packet is posted with its granule position, or AssertFail is raised. -/
theorem postAudio_cases (len : Nat) (marker : BitVec 2) (gran : Option Nat) (s : State) :
    (∃ g, gran = some g ∧
      postAudio len marker gran s = { s with enc := { s.enc with pend := .write len marker (BitVec.ofNat 64 g) } }) ∨
    (gran = none ∧ postAudio len marker gran s = encRaised 5 0 s) := by
  cases gran with
  | some g => exact .inl ⟨g, rfl, rfl⟩
  | none => exact .inr ⟨rfl, rfl⟩

/-! ### The decoder's trimming -/

/-- APPEND writes the elements of DEC.SCRATCH to PCM_OUT from OUTLEN on and moves OUTLEN on. -/
theorem append_eq (off keep : Nat) (s : State) :
    append off keep s = { s with
      pcmOut := Memory.writeBlock s.pcmOut s.dec.outLen.toNat
        (samplesAt .scratch s.dec.scratch (off * s.dec.ch.toNat) ((keep - off) * s.dec.ch.toNat))
      dec := { s.dec with outLen := toU64 (s.dec.outLen.toNat + (keep - off) * s.dec.ch.toNat) } } := rfl

/-- FRAMEOUT counts the frame and raises MalformedAudio, or keeps a part, skips from it and appends the rest. -/
theorem frameOut_cases (n endPos : Nat) (last : Bool) (s : State) :
    ∃ total, total = toU64 (s.dec.totalDec.toNat + n) ∧
    ((tailTrim n total.toNat endPos last = none ∧
      frameOut n endPos last s = decRaised 1 0 { s with dec := { s.dec with totalDec := total } }) ∨
     (∃ keep, tailTrim n total.toNat endPos last = some keep ∧
      frameOut n endPos last s = append (preSkip keep s.dec.skipRem.toNat).1 keep { s with
        dec := { s.dec with
          totalDec := total
          skipRem := BitVec.ofNat 16 (preSkip keep s.dec.skipRem.toNat).2
          pend := .start } })) := by
  refine ⟨_, rfl, ?_⟩
  unfold frameOut
  cases h : tailTrim n (toU64 (s.dec.totalDec.toNat + n)).toNat endPos last with
  | none => exact .inl ⟨rfl, by simp [h]; rfl⟩
  | some keep => exact .inr ⟨keep, rfl, by simp [h]; rfl⟩

/-! ### Header phases -/

/-- E_HEAD composes the identification header in ENC.PKTBUF and posts it, and nothing else. -/
theorem execEHead_eq (s : State) :
    execEHead s = .next { s with
      enc := { s.enc with
        pktBuf := Memory.writeBlock s.enc.pktBuf 0 (idHeader s)
        pend := .write 19 Marker.endPage 0 } } := by
  simp only [execEHead, postWrite, encPend, State.withEnc]
  rfl

/-- E_TAGS composes the comment header in ENC.PKTBUF and posts it, or refuses a vendor string that does not fit. -/
theorem execETags_eq (s : State) :
    execETags s = if 3984 < s.params.vendor.length then .refused .vendorTooLong
      else .next { s with
        enc := { s.enc with
          pktBuf := Memory.writeBlock s.enc.pktBuf 0 (commentHeader s.params.vendor)
          pend := .write (16 + s.params.vendor.length) Marker.endPage 0 } } := by
  unfold execETags
  split
  · rename_i h
    exact (if_pos h).symm
  · rename_i h
    refine Eq.trans ?_ (if_neg h).symm
    simp only [postWrite, encPend, State.withEnc]
    rfl

/-! ### The host's operations -/

/-- What a read of PCM_OUT does: the element comes back, or there is none and the model stops. -/
theorem readPcmOut_cases (i : Nat) (s : State) :
    (∃ v, Memory.read s.pcmOut i = some v ∧ readPcmOut i s = .next { s with readOut := v.setWidth 64 }) ∨
    (Memory.read s.pcmOut i = none ∧ readPcmOut i s = .fault (.noSuchOutput i)) := by
  unfold readPcmOut
  cases h : Memory.read s.pcmOut i with
  | some v => exact .inl ⟨v, rfl, rfl⟩
  | none => exact .inr ⟨rfl, rfl⟩

/-- What LOAD PCM_IN does: the elements land, and while ENC is BUSY their indices are noted. -/
theorem loadPcm_eq (base : Nat) (elems : List Sample) (s : State) :
    loadPcm base elems s =
      if status .enc s = .busy then { s with
        pcmIn := Memory.writeBlock s.pcmIn base elems
        enc := { s.enc with raced := List.range' base elems.length ++ s.enc.raced }
        freeCount := s.freeCount + 1 }
      else { s with pcmIn := Memory.writeBlock s.pcmIn base elems } := by
  unfold loadPcm
  split <;> rfl

/-! ### The step -/

/-- What a step can do, once: nothing pending at the host, a host operation, or the instruction that a word at the moving
agent's place decodes to, run with the schedule (and the host's queue) moved on. -/
theorem step_eq_next_cases (s t : State) (h : step s = .next t) :
    (∃ u, (nextAgent s).1 = .host ∧ u = (nextAgent s).2 ∧ t = u) ∨
    (∃ u op rest, (nextAgent s).1 = .host ∧ (nextAgent s).2.inputs = op :: rest ∧ hostCode op = none ∧
      u = (nextAgent s).2.withInputs rest ∧ hostOp op u = .next t) ∨
    (∃ u op rest c i, (nextAgent s).1 = .host ∧ (nextAgent s).2.inputs = op :: rest ∧ hostCode op = some c ∧
      u = (nextAgent s).2.withInputs rest ∧ decode c = .instr i ∧ exec i u = .next t) ∨
    (∃ u i, (nextAgent s).1 = .enc ∧ u = (nextAgent s).2 ∧ decode (encCode u) = .instr i ∧ exec i u = .next t) ∨
    (∃ u i, (nextAgent s).1 = .dec ∧ u = (nextAgent s).2 ∧ decode (decCode u) = .instr i ∧ exec i u = .next t) := by
  have run_code : ∀ c u, run (.code c u) = .next t → ∃ i, decode c = .instr i ∧ exec i u = .next t := by
    intro c u hr
    simp only [run] at hr
    split at hr <;> first | exact ⟨_, ‹_›, hr⟩ | cases hr
  unfold step fetch at h
  rcases hn : nextAgent s with ⟨a, u⟩
  rw [hn] at h
  cases a with
  | host =>
    simp only at h
    cases hi : u.inputs with
    | nil =>
      simp only [hi, run, Host.Outcome.next.injEq] at h
      exact .inl ⟨u, rfl, rfl, h.symm⟩
    | cons op rest =>
      simp only [hi] at h
      cases hc : hostCode op with
      | none =>
        simp only [hc, run] at h
        exact .inr (.inl ⟨_, op, rest, rfl, rfl, hc, rfl, h⟩)
      | some c =>
        simp only [hc] at h
        obtain ⟨i, h1, h2⟩ := run_code _ _ h
        exact .inr (.inr (.inl ⟨_, op, rest, c, i, rfl, rfl, hc, rfl, h1, h2⟩))
  | enc =>
    obtain ⟨i, h1, h2⟩ := run_code _ _ h
    exact .inr (.inr (.inr (.inl ⟨u, i, rfl, rfl, h1, h2⟩)))
  | dec =>
    obtain ⟨i, h1, h2⟩ := run_code _ _ h
    exact .inr (.inr (.inr (.inr ⟨u, i, rfl, rfl, h1, h2⟩)))

/-- The schedule's move touches nothing but the schedule. -/
theorem nextAgent_state (s : State) : ∃ x, (nextAgent s).2 = s.withSched x := by
  unfold nextAgent
  split
  · exact ⟨_, rfl⟩
  · exact ⟨_, rfl⟩

end Sys2Proof.Machine
end

