-- ==== Sys2Proof/Laws/PerInstr.lean ====
section
/-! SUPPORT. For every instruction: the form the encoder gives it carries the bits that its row of spec/opcode_table.json
fixes, at the place the row's format names. -/

namespace Sys2Proof.Laws.MatchesTable

/-- The formats of the opcode table. -/
inductive Format where
  | cmd64 | convSel | encPhase | decPhase | endMark | errCode | head19 | tagsVar
deriving DecidableEq, Repr

/-- A row of the opcode table: its format, its mask and the value of the masked bits. -/
structure Row where
  format : Format
  mask : Nat
  value : Nat
deriving DecidableEq, Repr

/-- The row of each instruction, copied from the table. -/
def row : Instr → Row
  | .encode _ _ => ⟨.cmd64, 0xFFFF0000000000FF, 0x0000000000000001⟩
  | .decode _ => ⟨.cmd64, 0xFFFF00000000FFFF, 0x0000000000000002⟩
  | .scale16 _ _ _ => ⟨.convSel, 0x3, 0x0⟩
  | .scale64 _ _ _ => ⟨.convSel, 0x3, 0x1⟩
  | .valrate _ => ⟨.convSel, 0x3, 0x2⟩
  | .convReserved => ⟨.convSel, 0x3, 0x3⟩
  | .eIdle => ⟨.encPhase, 0xF, 0x0⟩
  | .eValidate => ⟨.encPhase, 0xF, 0x1⟩
  | .eOpen => ⟨.encPhase, 0xF, 0x2⟩
  | .eLook => ⟨.encPhase, 0xF, 0x3⟩
  | .eSerial => ⟨.encPhase, 0xF, 0x4⟩
  | .eHead => ⟨.encPhase, 0xF, 0x5⟩
  | .eTags => ⟨.encPhase, 0xF, 0x6⟩
  | .eMain => ⟨.encPhase, 0xF, 0x7⟩
  | .eTail => ⟨.encPhase, 0xF, 0x8⟩
  | .eFinal => ⟨.encPhase, 0xF, 0x9⟩
  | .eDone => ⟨.encPhase, 0xF, 0xA⟩
  | .eError => ⟨.encPhase, 0xF, 0xF⟩
  | .dIdle => ⟨.decPhase, 0xF, 0x0⟩
  | .dHead => ⟨.decPhase, 0xF, 0x1⟩
  | .dOpen => ⟨.decPhase, 0xF, 0x2⟩
  | .dTags => ⟨.decPhase, 0xF, 0x3⟩
  | .dFrame => ⟨.decPhase, 0xF, 0x4⟩
  | .dDone => ⟨.decPhase, 0xF, 0x5⟩
  | .dError => ⟨.decPhase, 0xF, 0xF⟩
  | .normal => ⟨.endMark, 0x3, 0x0⟩
  | .endPage => ⟨.endMark, 0x3, 0x1⟩
  | .endStream => ⟨.endMark, 0x3, 0x2⟩
  | .errNone _ => ⟨.errCode, 0x7, 0x0⟩
  | .malformedAudio _ => ⟨.errCode, 0x7, 0x1⟩
  | .invalidSampleRate _ => ⟨.errCode, 0x7, 0x2⟩
  | .codecFailure _ _ => ⟨.errCode, 0x7, 0x3⟩
  | .ioFailure _ _ => ⟨.errCode, 0x7, 0x4⟩
  | .assertFail _ => ⟨.errCode, 0x7, 0x5⟩
  | .illegalCommand _ => ⟨.errCode, 0x7, 0x6⟩
  | .opusHead _ _ _ _ _ _ => ⟨.head19, 0xFFFFFFFFFFFFFFFFFF, 0x1646165487375704F⟩
  | .opusTags _ _ => ⟨.tagsVar, 0xFFFFFFFFFFFFFFFF, 0x736761547375704F⟩

/-- An encoded form that stands at a row's place and carries its bits. -/
def Fits (r : Row) : Code → Prop
  | .encCmd w => r.format = .cmd64 ∧ w &&& BitVec.ofNat 64 r.mask = BitVec.ofNat 64 r.value
  | .decCmd w => r.format = .cmd64 ∧ w &&& BitVec.ofNat 64 r.mask = BitVec.ofNat 64 r.value
  | .conv sel _ _ _ => r.format = .convSel ∧ sel &&& BitVec.ofNat 2 r.mask = BitVec.ofNat 2 r.value
  | .encPhase c => r.format = .encPhase ∧ c &&& BitVec.ofNat 4 r.mask = BitVec.ofNat 4 r.value
  | .decPhase c => r.format = .decPhase ∧ c &&& BitVec.ofNat 4 r.mask = BitVec.ofNat 4 r.value
  | .endMark m => r.format = .endMark ∧ m &&& BitVec.ofNat 2 r.mask = BitVec.ofNat 2 r.value
  | .errCode _ c _ => r.format = .errCode ∧ c &&& BitVec.ofNat 3 r.mask = BitVec.ofNat 3 r.value
  | .headPacket b => r.format = .head19 ∧ 19 ≤ b.length ∧ b.take 9 = bytesOf r.value 9
  | .tagsPacket b => r.format = .tagsVar ∧ 12 ≤ b.length ∧ b.take 8 = bytesOf r.value 8

/-- What is said of each instruction. -/
def Statement (i : Instr) : Prop := Fits (row i) (encode i)

/-- A word whose low byte and upper 16 bits are given, under the mask of ENCODE. -/
theorem and_mask_op_rsv (w : BitVec 64) (op : BitVec 8) (h0 : w.extractLsb' 0 8 = op) (h2 : w.extractLsb' 48 16 = 0) :
    w &&& 0xFFFF0000000000FF#64 = op.setWidth 64 := by
  apply BitVec.eq_of_toNat_eq
  apply Nat.eq_of_testBit_eq
  intro i
  have hm : ∀ i, i < 64 → (0xFFFF0000000000FF#64).getLsbD i = decide (i < 8 ∨ 48 ≤ i) := by decide
  rw [BitVec.testBit_toNat, BitVec.testBit_toNat, BitVec.getLsbD_and, BitVec.getLsbD_setWidth]
  by_cases hi : i < 64
  · rw [hm i hi]
    by_cases h8 : i < 8
    · have := congrArg (fun x => x.getLsbD i) h0
      simp only [BitVec.getLsbD_extractLsb', h8, decide_true, Bool.true_and, Nat.zero_add] at this
      rw [this]
      simp [h8, hi]
    · by_cases h48 : 48 ≤ i
      · have := congrArg (fun x => x.getLsbD (i - 48)) h2
        simp only [BitVec.getLsbD_extractLsb'] at this
        rw [show 48 + (i - 48) = i by omega] at this
        have h16 : i - 48 < 16 := by omega
        simp only [h16, decide_true, Bool.true_and] at this
        rw [this, BitVec.getLsbD_of_ge op i (by omega)]
        simp
      · rw [BitVec.getLsbD_of_ge op i (by omega)]
        simp [h8, h48]
  · rw [BitVec.getLsbD_of_ge w i (by omega), BitVec.getLsbD_of_ge op i (by omega)]
    simp

/-- A word whose two low bytes and upper 16 bits are given, under the mask of DECODE. -/
theorem and_mask_op_ch_rsv (w : BitVec 64) (op : BitVec 8) (h0 : w.extractLsb' 0 8 = op) (h1 : w.extractLsb' 8 8 = 0)
    (h2 : w.extractLsb' 48 16 = 0) : w &&& 0xFFFF00000000FFFF#64 = op.setWidth 64 := by
  rw [← and_mask_op_rsv w op h0 h2]
  apply BitVec.eq_of_toNat_eq
  apply Nat.eq_of_testBit_eq
  intro i
  have hm : ∀ i, i < 64 → (0xFFFF0000000000FF#64).getLsbD i = decide (i < 8 ∨ 48 ≤ i) := by decide
  have hm' : ∀ i, i < 64 → (0xFFFF00000000FFFF#64).getLsbD i = decide (i < 16 ∨ 48 ≤ i) := by decide
  rw [BitVec.testBit_toNat, BitVec.testBit_toNat, BitVec.getLsbD_and, BitVec.getLsbD_and]
  by_cases hi : i < 64
  · rw [hm i hi, hm' i hi]
    by_cases h : 8 ≤ i ∧ i < 16
    · have := congrArg (fun x => x.getLsbD (i - 8)) h1
      simp only [BitVec.getLsbD_extractLsb'] at this
      rw [show 8 + (i - 8) = i by omega] at this
      have h8 : i - 8 < 8 := by omega
      simp only [h8, decide_true, Bool.true_and] at this
      rw [this]
      simp
    · congr 2
      apply propext
      omega
  · rw [BitVec.getLsbD_of_ge w i (by omega)]
    simp

theorem encode (ch : BitVec 8) (rate : BitVec 32) : Statement (.encode ch rate) :=
by
  have h := and_mask_op_rsv _ 1 (cmdWord_op 1 ch rate) (cmdWord_rsv 1 ch rate)
  simp only [Statement, Sys2Proof.encode, Fits, row]
  exact ⟨trivial, h⟩

theorem decode (rate : BitVec 32) : Statement (.decode rate) :=
by
  have h := and_mask_op_ch_rsv _ 2 (cmdWord_op 2 0 rate) (cmdWord_ch 2 0 rate) (cmdWord_rsv 2 0 rate)
  simp only [Statement, Sys2Proof.encode, Fits, row]
  exact ⟨trivial, h⟩

theorem scale16 (value : BitVec 64) (src dst : BitVec 32) : Statement (.scale16 value src dst) :=
  ⟨rfl, by simp only [row]; decide⟩

theorem scale64 (value : BitVec 64) (src dst : BitVec 32) : Statement (.scale64 value src dst) :=
  ⟨rfl, by simp only [row]; decide⟩

theorem valrate (value : BitVec 64) : Statement (.valrate value) :=
  ⟨rfl, by simp only [row]; decide⟩

theorem convReserved : Statement .convReserved := ⟨rfl, rfl⟩

theorem eIdle : Statement .eIdle := ⟨rfl, rfl⟩

theorem eValidate : Statement .eValidate := ⟨rfl, rfl⟩

theorem eOpen : Statement .eOpen := ⟨rfl, rfl⟩

theorem eLook : Statement .eLook := ⟨rfl, rfl⟩

theorem eSerial : Statement .eSerial := ⟨rfl, rfl⟩

theorem eHead : Statement .eHead := ⟨rfl, rfl⟩

theorem eTags : Statement .eTags := ⟨rfl, rfl⟩

theorem eMain : Statement .eMain := ⟨rfl, rfl⟩

theorem eTail : Statement .eTail := ⟨rfl, rfl⟩

theorem eFinal : Statement .eFinal := ⟨rfl, rfl⟩

theorem eDone : Statement .eDone := ⟨rfl, rfl⟩

theorem eError : Statement .eError := ⟨rfl, rfl⟩

theorem dIdle : Statement .dIdle := ⟨rfl, rfl⟩

theorem dHead : Statement .dHead := ⟨rfl, rfl⟩

theorem dOpen : Statement .dOpen := ⟨rfl, rfl⟩

theorem dTags : Statement .dTags := ⟨rfl, rfl⟩

theorem dFrame : Statement .dFrame := ⟨rfl, rfl⟩

theorem dDone : Statement .dDone := ⟨rfl, rfl⟩

theorem dError : Statement .dError := ⟨rfl, rfl⟩

theorem normal : Statement .normal := ⟨rfl, rfl⟩

theorem endPage : Statement .endPage := ⟨rfl, rfl⟩

theorem endStream : Statement .endStream := ⟨rfl, rfl⟩

theorem errNone (p : Pipe) : Statement (.errNone p) :=
  ⟨rfl, by simp only [row]; decide⟩

theorem malformedAudio (p : Pipe) : Statement (.malformedAudio p) :=
  ⟨rfl, by simp only [row]; decide⟩

theorem invalidSampleRate (p : Pipe) : Statement (.invalidSampleRate p) :=
  ⟨rfl, by simp only [row]; decide⟩

theorem codecFailure (p : Pipe) (info : BitVec 32) : Statement (.codecFailure p info) :=
  ⟨rfl, by simp only [row]; decide⟩

theorem ioFailure (p : Pipe) (info : BitVec 32) : Statement (.ioFailure p info) :=
  ⟨rfl, by simp only [row]; decide⟩

theorem assertFail (p : Pipe) : Statement (.assertFail p) :=
  ⟨rfl, by simp only [row]; decide⟩

theorem illegalCommand (p : Pipe) : Statement (.illegalCommand p) :=
  ⟨rfl, by simp only [row]; decide⟩

theorem opusHead (ch : BitVec 8) (preSkip : BitVec 16) (rate : BitVec 32) (gain : BitVec 16) (family : BitVec 8)
    (extra : List Byte) : Statement (.opusHead ch preSkip rate gain family extra) := by
  simp only [Statement, Sys2Proof.encode, Fits, row]
  refine ⟨trivial, ?_, ?_⟩
  · simp only [opusHeadBytes, headMagic, putLe16, putLe32, List.length_append, List.length_cons, List.length_nil]
    omega
  · simp only [opusHeadBytes, headMagic, headVersion, List.append_assoc, List.cons_append, List.take_succ_cons,
      List.take_zero, List.nil_append]
    decide

theorem opusTags (vendorLen : BitVec 32) (body : List Byte) : Statement (.opusTags vendorLen body) := by
  simp only [Statement, Sys2Proof.encode, Fits, row]
  refine ⟨trivial, ?_, ?_⟩
  · simp only [opusTagsBytes, tagsMagic, putLe32, List.length_append, List.length_cons, List.length_nil]
    omega
  · simp only [opusTagsBytes, tagsMagic, List.cons_append, List.take_succ_cons, List.take_zero, List.nil_append]
    decide

end Sys2Proof.Laws.MatchesTable
end

