-- ==== Sys2Proof/Tests/Slice0.lean ====
section
/-! SUPPORT. Tests: the operand checks, the decoding of one word of every row, one or two single steps per instruction, and a
witness for the hypotheses of every statement. Expected results are from spec/95_test_vectors.md where a V number stands,
else worked out by hand from the rule named. -/

namespace Sys2Proof.Tests

open Sys2Proof.Machine

/-! ### Small states -/

/-- A field of the next state, if there is one. -/
def got {α : Type} (o : Host.Outcome State Fault Refusal) (f : State → α) : Option α :=
  match o with
  | .next t => some (f t)
  | .fault _ => none
  | .refused _ => none

/-- ENC at 8000 Hz, one channel, in a phase. -/
def encS (phase : BitVec 4) (pend : EncPend) : State :=
  State.reset.withEnc { Enc.reset with phase := phase, pend := pend, rate := 8000, cmdCh := 1, ch := 1 }

/-- DEC at 8000 Hz, one channel, in a phase. -/
def decS (phase : BitVec 4) (pend : DecPend) : State :=
  State.reset.withDec { Dec.reset with phase := phase, pend := pend, tRate := 8000, ch := 1 }

/-- A state whose OPUSENC will give these answers. -/
def withEncScript (x : EncScript) (s : State) : State := s.withOpusEnc { s.opusEnc with script := x }

/-- A state whose OPUSDEC will give these answers. -/
def withDecScript (x : DecScript) (s : State) : State := s.withOpusDec { s.opusDec with script := x }

/-- A state whose OGGRD will give this answer. -/
def withRead (x : ReadAnswer) (s : State) : State := s.withOggRd { script := [x], reads := 0 }

/-- A state whose OGGWR will give this answer. -/
def withWrite (x : Answer Unit) (s : State) : State := s.withOggWr { script := [x], sent := [], accepted := [] }

/-- A state with the diagnostic on. -/
def diagOn (s : State) : State := { s with params := { s.params with diagEn := true } }

/-- `HEAD(2, 312, -256)` of 95_test_vectors.md section 2.3, with the rate field of 30_encoding.md R66 at 16000. -/
def headBytes : List Byte :=
  [0x4F, 0x70, 0x75, 0x73, 0x48, 0x65, 0x61, 0x64, 0x01, 0x02, 0x38, 0x01, 0x80, 0x3E, 0x00, 0x00, 0x00, 0xFF, 0x00]

/-- `TAGS` of 95_test_vectors.md section 2.3. -/
def tagsBytes : List Byte :=
  [0x4F, 0x70, 0x75, 0x73, 0x54, 0x61, 0x67, 0x73, 0x04, 0x00, 0x00, 0x00, 0x6F, 0x6F, 0x66, 0x64, 0x00, 0x00, 0x00,
    0x00]

/-! ### The operand checks refuse an ill-formed term, and only it -/

theorem test_wf_encode_ch : WellFormed (.encode 3 48000) = false ∧ WellFormed (.encode 2 48000) = true := by decide
theorem test_wf_scale16_value :
    WellFormed (.scale16 0x10000 1 1) = false ∧ WellFormed (.scale16 0xFFFF 1 1) = true := by decide
theorem test_wf_valrate_value :
    WellFormed (.valrate 0x100000000) = false ∧ WellFormed (.valrate 0xFFFFFFFF) = true := by decide
theorem test_wf_opusHead_ch :
    WellFormed (.opusHead 0 0 0 0 0 []) = false ∧ WellFormed (.opusHead 3 0 0 0 0 []) = false ∧
      WellFormed (.opusHead 1 0 0 0 0 []) = true ∧ WellFormed (.opusHead 2 0 0 0 0 []) = true := by decide

/-! ### Decoding: one word of every row, written out from 30_encoding.md -/

theorem test_decode_encode : decode (.encCmd 0x00000000BB800101) = .instr (.encode 1 48000) := by decide
theorem test_decode_encode_stereo : decode (.encCmd 0x000000003E800201) = .instr (.encode 2 16000) := by decide
theorem test_decode_decode : decode (.decCmd 0x00000000BB800002) = .instr (.decode 48000) := by decide
theorem test_decode_scale16 : decode (.conv 0b00 312 48000 8000) = .instr (.scale16 312 48000 8000) := by decide
theorem test_decode_scale64 : decode (.conv 0b01 5 48000 8000) = .instr (.scale64 5 48000 8000) := by decide
theorem test_decode_valrate : decode (.conv 0b10 44100 7 9) = .instr (.valrate 44100) := by decide
theorem test_decode_convReserved : decode (.conv 0b11 1 2 3) = .instr .convReserved := by decide
theorem test_decode_eIdle : decode (.encPhase 0b0000) = .instr .eIdle := by decide
theorem test_decode_eValidate : decode (.encPhase 0b0001) = .instr .eValidate := by decide
theorem test_decode_eOpen : decode (.encPhase 0b0010) = .instr .eOpen := by decide
theorem test_decode_eLook : decode (.encPhase 0b0011) = .instr .eLook := by decide
theorem test_decode_eSerial : decode (.encPhase 0b0100) = .instr .eSerial := by decide
theorem test_decode_eHead : decode (.encPhase 0b0101) = .instr .eHead := by decide
theorem test_decode_eTags : decode (.encPhase 0b0110) = .instr .eTags := by decide
theorem test_decode_eMain : decode (.encPhase 0b0111) = .instr .eMain := by decide
theorem test_decode_eTail : decode (.encPhase 0b1000) = .instr .eTail := by decide
theorem test_decode_eFinal : decode (.encPhase 0b1001) = .instr .eFinal := by decide
theorem test_decode_eDone : decode (.encPhase 0b1010) = .instr .eDone := by decide
theorem test_decode_eError : decode (.encPhase 0b1111) = .instr .eError := by decide
theorem test_decode_dIdle : decode (.decPhase 0b0000) = .instr .dIdle := by decide
theorem test_decode_dHead : decode (.decPhase 0b0001) = .instr .dHead := by decide
theorem test_decode_dOpen : decode (.decPhase 0b0010) = .instr .dOpen := by decide
theorem test_decode_dTags : decode (.decPhase 0b0011) = .instr .dTags := by decide
theorem test_decode_dFrame : decode (.decPhase 0b0100) = .instr .dFrame := by decide
theorem test_decode_dDone : decode (.decPhase 0b0101) = .instr .dDone := by decide
theorem test_decode_dError : decode (.decPhase 0b1111) = .instr .dError := by decide
theorem test_decode_normal : decode (.endMark 0b00) = .instr .normal := by decide
theorem test_decode_endPage : decode (.endMark 0b01) = .instr .endPage := by decide
theorem test_decode_endStream : decode (.endMark 0b10) = .instr .endStream := by decide
theorem test_decode_errNone : decode (.errCode .enc 0b000 0) = .instr (.errNone .enc) := by decide
theorem test_decode_malformedAudio : decode (.errCode .dec 0b001 0) = .instr (.malformedAudio .dec) := by decide
theorem test_decode_invalidSampleRate : decode (.errCode .enc 0b010 0) = .instr (.invalidSampleRate .enc) := by decide
theorem test_decode_codecFailure : decode (.errCode .dec 0b011 9) = .instr (.codecFailure .dec 9) := by decide
theorem test_decode_ioFailure : decode (.errCode .dec 0b100 0x55) = .instr (.ioFailure .dec 0x55) := by decide
theorem test_decode_assertFail : decode (.errCode .enc 0b101 0) = .instr (.assertFail .enc) := by decide
theorem test_decode_illegalCommand : decode (.errCode .enc 0b110 0) = .instr (.illegalCommand .enc) := by decide
theorem test_decode_opusHead :
    decode (.headPacket headBytes) = .instr (.opusHead 2 312 16000 0xFF00 0 []) := by decide
theorem test_decode_opusTags :
    decode (.tagsPacket tagsBytes) = .instr (.opusTags 4 [0x6F, 0x6F, 0x66, 0x64, 0, 0, 0, 0]) := by decide

/-- The reserved codes (30_encoding.md R64, R72; 60_exceptions.md R200). -/
theorem test_decode_reserved :
    decode (.encPhase 11) = .reservedEncPhase 11 ∧ decode (.decPhase 6) = .reservedDecPhase 6 ∧
      decode (.endMark 3) = .reservedEndMark ∧ decode (.errCode .dec 7 0) = .reservedErrCode := by decide

/-- Headers that fail a check of 42_decode.md R132 or R136 (V31, V32, V33, V36). -/
theorem test_decode_bad_headers :
    decode (.headPacket (headBytes.take 18)) = .instr (.malformedAudio .dec) ∧
      decode (.headPacket (headBytes.set 7 0x44)) = .instr (.malformedAudio .dec) ∧
      decode (.headPacket (headBytes.set 8 2)) = .instr (.malformedAudio .dec) ∧
      decode (.tagsPacket (tagsBytes.take 11)) = .instr (.malformedAudio .dec) ∧
      decode (.tagsPacket (tagsBytes.set 7 0x7A)) = .instr (.malformedAudio .dec) := by decide

/-- Words of the opcode table, numbered as the table numbers them. -/
theorem test_tableWord :
    decodeTableWord 64 0x00000000BB800101 = some (.encode 1 48000) ∧
      decodeTableWord 64 0x00000000BB800002 = some (.decode 48000) ∧
      decodeTableWord 8 0x1 = some (.scale64 0 0 0) ∧ decodeTableWord 8 0x7 = some .eMain ∧
      decodeTableWord 72 0x1646165487375704F = some (.opusHead 0 0 0 0 0 []) ∧
      decodeTableWord 64 0x736761547375704F = some (.opusTags 0 [0, 0, 0, 0]) := by decide

/-- A word of the table is the first thing that a step runs after reset. -/
theorem test_withFetchWord :
    got (step (State.reset.withFetchWord 64 0x00000000BB800101)) (fun t => (t.enc.phase, t.enc.rate, t.enc.cmdCh)) =
        some (1, 48000, 1) ∧
      got (step (State.reset.withFetchWord 8 0x4)) (fun t => t.enc.phase) = some 5 ∧
      got (step (State.reset.withFetchWord 64 0x736761547375704F)) (fun t => t.dec.phase) = some 4 := by decide

/-! ### Single steps: commands and CONV -/

/-- 30_encoding.md R63: accepted at an idle pipeline, dropped at a busy one. -/
theorem test_encode :
    got (exec (.encode 2 16000) State.reset) (fun t => (t.enc.phase, t.enc.rate, t.enc.cmdCh)) = some (1, 16000, 2) ∧
      got (exec (.encode 2 16000) (encS 7 .start)) id = some (encS 7 .start) := by decide
/-- 30_encoding.md R62: CH = 3. -/
theorem test_encode_ch3 : got (exec (.encode 3 16000) State.reset) (fun t => (t.enc.phase, t.enc.err)) = some (15, 6) := by
  decide
theorem test_decode_command :
    got (exec (.decode 48000) (decS 5 .start)) (fun t => (t.dec.phase, t.dec.tRate, t.dec.outLen)) =
      some (1, 48000, 0) := by decide
/-- V16, V25, V29. -/
theorem test_scale16 :
    got (exec (.scale16 312 48000 8000) State.reset) (fun t => t.convOut) = some ⟨52, true⟩ ∧
      got (exec (.scale16 40000 48000 96000) State.reset) (fun t => t.convOut) = some ⟨0, false⟩ ∧
      got (exec (.scale16 0x10000 1 1) State.reset) (fun t => t.convOut) = some ⟨0, false⟩ := by decide
/-- V20 to V23, the boundary. -/
theorem test_scale16_boundary :
    got (exec (.scale16 10922 8000 48000) State.reset) (fun t => t.convOut) = some ⟨65532, true⟩ ∧
      got (exec (.scale16 10923 8000 48000) State.reset) (fun t => t.convOut) = some ⟨0, false⟩ := by decide
/-- V6, V10, V15. -/
theorem test_scale64 :
    got (exec (.scale64 48312 48000 16000) State.reset) (fun t => t.convOut) = some ⟨16104, true⟩ ∧
      got (exec (.scale64 7 8000 12000) State.reset) (fun t => t.convOut) = some ⟨10, true⟩ ∧
      got (exec (.scale64 5 0 48000) State.reset) (fun t => t.convOut) = some ⟨0, false⟩ := by decide
/-- V12, V13. -/
theorem test_scale64_boundary :
    got (exec (.scale64 384307168202282 48000 48000) State.reset) (fun t => t.convOut) =
        some ⟨384307168202282, true⟩ ∧
      got (exec (.scale64 384307168202283 48000 48000) State.reset) (fun t => t.convOut) = some ⟨0, false⟩ := by decide
/-- V26, V27. -/
theorem test_valrate :
    got (exec (.valrate 24000) State.reset) (fun t => t.convOut) = some ⟨24000, true⟩ ∧
      got (exec (.valrate 44100) State.reset) (fun t => t.convOut) = some ⟨0, false⟩ := by decide
/-- V28. -/
theorem test_convReserved :
    got (exec .convReserved { State.reset with convOut := ⟨9, true⟩ }) (fun t => t.convOut) = some ⟨0, false⟩ := by decide

/-! ### Single steps: ENC -/

theorem test_eIdle : got (exec .eIdle State.reset) id = some State.reset := by decide
/-- X2, and CH = 0 counting as 1 (43_encode.md R161). -/
theorem test_eValidate :
    got (exec .eValidate (State.reset.withEnc { Enc.reset with phase := 1, rate := 44100 }))
        (fun t => (t.enc.phase, t.enc.err, t.opusEnc.sent)) = some (15, 2, []) ∧
      got (exec .eValidate (State.reset.withEnc { Enc.reset with phase := 1, rate := 24000 }))
        (fun t => (t.enc.phase, t.enc.ch)) = some (2, 1) := by decide
/-- 43_encode.md R163. -/
theorem test_eOpen :
    got (exec .eOpen (withEncScript ⟨[.ok ()], [], [], [], []⟩ (encS 2 .start)))
      (fun t => (t.enc.pend, t.opusEnc.sent, t.opusEnc.inst)) =
      some (.bitrate, [.construct 8000 1 .audio], some ⟨8000, 1, none⟩) := by decide
theorem test_eOpen_bitrate :
    got (exec .eOpen (withEncScript ⟨[], [.err 9], [], [], []⟩ (encS 2 .bitrate)))
      (fun t => (t.enc.phase, t.enc.err, t.enc.errInfo, t.opusEnc.sent)) = some (15, 3, 9, [.setBitrate 24000]) := by decide
/-- 43_encode.md R164 at 8000 Hz with lookahead 52 (V41 to V44 use the same numbers), and the boundary of V20. -/
theorem test_eLook :
    got (exec .eLook (withEncScript ⟨[], [], [.ok 52], [], []⟩ ((encS 3 .start).withEnc
        { (encS 3 .start).enc with n := 100 })))
      (fun t => (t.enc.phase, t.enc.skip, t.enc.skipSl, t.enc.total, t.enc.skip48)) =
      some (4, 52, 52, 152, 312) := by decide
theorem test_eLook_assert :
    got (exec .eLook (withEncScript ⟨[], [], [.ok 10923], [], []⟩ (encS 3 .start)))
      (fun t => (t.enc.phase, t.enc.err, t.enc.total)) = some (15, 5, 10923) := by decide
/-- The SERIAL of 95_test_vectors.md's conventions. -/
theorem test_eSerial :
    got (exec .eSerial { encS 4 .start with
        params := ⟨[], 0x00000A5A, false, .literal⟩, randIn := [0x12345678] })
      (fun t => (t.enc.phase, t.enc.serial, t.randIn)) = some (5, 0x12345C22, []) := by decide
/-- 43_encode.md R168: 8000 = 0x1F40. -/
theorem test_eHead :
    got (exec .eHead ((encS 5 .start).withEnc { (encS 5 .start).enc with skip48 := 312 }))
      (fun t => (bytesAt .pktBuf t.enc.pktBuf 0 19, t.enc.pend)) =
      some ([0x4F, 0x70, 0x75, 0x73, 0x48, 0x65, 0x61, 0x64, 0x01, 0x01, 0x38, 0x01, 0x40, 0x1F, 0x00, 0x00, 0x00, 0x00,
        0x00], .write 19 1 0) := by decide
/-- 43_encode.md R169: the bytes of `TAGS`. -/
theorem test_eTags :
    got (exec .eTags { encS 6 .start with params := ⟨[0x6F, 0x6F, 0x66, 0x64], 0, false, .literal⟩ })
      (fun t => (bytesAt .pktBuf t.enc.pktBuf 0 20, t.enc.pend)) = some (tagsBytes, .write 20 1 0) := by decide
/-- 43_encode.md R170: FS = 160 at 8000 Hz. -/
theorem test_eMain :
    got (exec .eMain ((encS 7 .start).withEnc { (encS 7 .start).enc with total := 330, ch := 2 }))
      (fun t => (t.enc.fs, t.enc.fsz, t.enc.max, t.enc.idx, t.enc.pend)) = some (160, 320, 1, 0, .loop) := by decide
/-- 43_encode.md R170, R171: at IDX = MAX the position is MAX * FSZ. -/
theorem test_eMain_end :
    got (exec .eMain ((encS 7 .loop).withEnc { (encS 7 .loop).enc with fsz := 320, max := 1, idx := 1, total := 330 }))
      (fun t => (t.enc.phase, t.enc.pos)) = some (8, 320) := by decide
/-- 43_encode.md R171: 12 slots left do not hold the 20 of 2.5 ms at 8000 Hz. -/
theorem test_eTail :
    got (exec .eTail ((encS 8 .start).withEnc { (encS 8 .start).enc with pos := 140, total := 152 }))
      (fun t => (t.enc.phase, t.enc.pend)) = some (9, .start) := by decide
/-- 43_encode.md R171: POS moves on, granule SCALE64(152, 8000, 48000) = 912, END_STREAM at TOTAL. -/
theorem test_eTail_post :
    got (exec .eTail (withEncScript ⟨[], [], [], [], [7]⟩ ((encS 8 (.range 3 20)).withEnc
        { (encS 8 (.range 3 20)).enc with pos := 132, total := 152 })))
      (fun t => (t.enc.pos, t.enc.pend, t.enc.diag, t.enc.diagV)) = some (152, .write 3 2 912, 7, true) := by decide
/-- V63: FRAMEFILL(140, 20) with SKIPSL = 52 and N = 100. -/
theorem test_eFinal_fill :
    got (exec .eFinal ({ encS 9 .start with pcmIn := (List.range 100).map (fun i => (i, BitVec.ofNat 16 (i + 1))) }.withEnc
        { (encS 9 .start).enc with n := 100, skipSl := 52, pos := 140, total := 152 }))
      (fun t => (t.enc.frameBuf.map (fun e => e.2.toNat), t.enc.pend)) =
      some ([89, 90, 91, 92, 93, 94, 95, 96, 97, 98, 99, 100, 0, 0, 0, 0, 0, 0, 0, 0], .encode 20) := by decide
/-- 43_encode.md R172, R173: nothing left. -/
theorem test_eFinal_done :
    got (exec .eFinal { (encS 9 .start).withEnc { (encS 9 .start).enc with pos := 152, total := 152 } with
        opusEnc := ⟨some ⟨8000, 1, none⟩, ⟨[], [], [], [], []⟩, []⟩ })
      (fun t => (t.enc.phase, t.opusEnc.inst)) = some (10, none) := by decide
/-- 43_encode.md R167: 4001 bytes are more than MAX_PACKET. -/
theorem test_eMain_overlong :
    got (exec .eMain (withEncScript ⟨[], [], [], [.ok (List.replicate 4001 0)], []⟩ (encS 7 (.encode 160))))
      (fun t => (t.enc.phase, t.enc.err, t.enc.errInfo, t.enc.pktBuf)) = some (15, 5, 0, []) := by
  have h : Config.maxPacket < (List.replicate 4001 (0 : Byte)).length := by
    rw [List.length_replicate]
    decide
  generalize List.replicate 4001 (0 : Byte) = b at h ⊢
  simp only [exec, execEMain, withEncScript, encS, State.withEnc, State.withOpusEnc, encodeFrame, if_pos h]
  rfl
theorem test_eDone : got (exec .eDone (encS 10 .start)) id = some (encS 10 .start) := by decide
theorem test_eError : got (exec .eError (encS 15 .start)) id = some (encS 15 .start) := by decide
/-- 43_encode.md R166, R170: the next index; EOS stays clear. -/
theorem test_normal :
    got (exec .normal (withWrite (.ok ()) ((encS 7 (.write 1 0 6)).withEnc
        { (encS 7 (.write 1 0 6)).enc with pktBuf := [(0, 0x2A)], serial := 5, idx := 3 })))
      (fun t => (t.enc.idx, t.enc.pend, t.enc.eos, t.oggWr.accepted)) =
      some (4, .loop, false, [⟨[0x2A], 5, 0, 6⟩]) := by decide
/-- 43_encode.md R168: E_TAGS after the identification header; a write failure is IOFailure. -/
theorem test_endPage :
    got (exec .endPage (withWrite (.ok ()) (encS 5 (.write 0 1 0)))) (fun t => (t.enc.phase, t.oggWr.accepted)) =
        some (6, [⟨[], 0, 1, 0⟩]) ∧
      got (exec .endPage (withWrite (.err 0x77) (encS 5 (.write 0 1 0))))
        (fun t => (t.enc.phase, t.enc.err, t.enc.errInfo, t.oggWr.accepted)) = some (15, 4, 0x77, []) := by decide
/-- 10_state.md R17, 43_encode.md R172: EOS, and the end of the command. -/
theorem test_endStream :
    got (exec .endStream (withWrite (.ok ()) ((encS 9 (.write 0 2 912)).withEnc
        { (encS 9 (.write 0 2 912)).enc with pos := 140, total := 152 })))
      (fun t => (t.enc.phase, t.enc.eos, t.enc.pos)) = some (10, true, 152) := by decide

/-! ### Single steps: DEC -/

theorem test_dIdle : got (exec .dIdle State.reset) id = some State.reset := by decide
/-- V30, V37b. -/
theorem test_dHead :
    got (exec .dHead (withRead .exhausted (decS 1 .start))) (fun t => (t.dec.phase, t.dec.err, t.oggRd.reads)) =
        some (15, 1, 1) ∧
      got (exec .dHead (withRead (.err 7) (decS 1 .start))) (fun t => (t.dec.phase, t.dec.err, t.dec.errInfo)) =
        some (15, 4, 7) := by decide
theorem test_dHead_packet :
    got (exec .dHead (withRead (.packet headBytes 5 true) (decS 1 .start)))
      (fun t => (t.dec.pend, pktBytes t, t.dec.pktGran, t.dec.pktLast)) = some (.head, headBytes, 5, true) := by decide
/-- V35: no OPUSDEC transaction. -/
theorem test_dOpen_rate :
    got (exec .dOpen (State.reset.withDec { Dec.reset with phase := 2, tRate := 44100, ch := 1 }))
      (fun t => (t.dec.phase, t.dec.err, t.opusDec.sent)) = some (15, 2, []) := by decide
/-- 42_decode.md R134, R135: 312 at 48000 Hz is 52 at 8000 Hz. -/
theorem test_dOpen_gain :
    got (exec .dOpen (withDecScript ⟨[], [.ok ()], [], []⟩ ((decS 2 .gain).withDec
        { (decS 2 .gain).dec with preSkip48 := 312, gain := 0xFF00, totalDec := 9 })))
      (fun t => (t.dec.phase, t.dec.skipRem, t.dec.totalDec, t.opusDec.sent)) =
      some (3, 52, 0, [.setGain 0xFF00]) := by decide
theorem test_dTags :
    got (exec .dTags (withRead .exhausted (decS 3 .start))) (fun t => (t.dec.phase, t.dec.err)) = some (15, 1) ∧
      got (exec .dTags (withRead (.packet tagsBytes 0 false) (decS 3 .start))) (fun t => (t.dec.pend, pktBytes t)) =
        some (.tags, tagsBytes) := by decide
/-- V76 within a frame of three stereo samples at pre-skip 1: `off` = 1, `keep` = 3. -/
theorem test_dFrame_append :
    got (exec .dFrame (withDecScript ⟨[], [], [.ok ⟨3, [10, 11, 20, 21, 30, 31]⟩], []⟩ ((decS 4 .packet).withDec
        { (decS 4 .packet).dec with ch := 2, skipRem := 1, pktIn := [(0, 1)], pktLen := 1 })))
      (fun t => (t.pcmOut, t.dec.outLen, t.dec.skipRem, t.dec.totalDec, t.dec.pend)) =
      some ([(0, 20), (1, 21), (2, 30), (3, 31)], 4, 0, 3, .start) := by decide
/-- V70: a trim of 4 from a frame of 3 (the declared end 5 is granule position 30 at 8000 Hz). -/
theorem test_dFrame_malformed :
    got (exec .dFrame (withDecScript ⟨[], [], [.ok ⟨3, [1, 2, 3]⟩], []⟩ ((decS 4 .packet).withDec
        { (decS 4 .packet).dec with totalDec := 6, pktGran := 30, pktLast := true })))
      (fun t => (t.dec.phase, t.dec.err, t.dec.totalDec, t.dec.outLen)) = some (15, 1, 9, 0) := by decide
theorem test_dDone :
    got (exec .dDone (decS 5 .start)) (fun t => (t.dec.phase, t.dec.outCh)) = some (5, 1) := by decide
theorem test_dError : got (exec .dError (decS 15 .start)) id = some (decS 15 .start) := by decide
/-- 42_decode.md R133, and V34. -/
theorem test_opusHead :
    got (exec (.opusHead 2 312 16000 0xFF00 0 []) (decS 1 .head))
        (fun t => (t.dec.phase, t.dec.ch, t.dec.preSkip48, t.dec.gain)) = some (2, 2, 312, 0xFF00) ∧
      got (exec (.opusHead 3 312 16000 0 0 []) (decS 1 .head)) (fun t => (t.dec.phase, t.dec.err)) = some (15, 1) := by decide
theorem test_opusTags : got (exec (.opusTags 0xFFFFFFFF []) (decS 3 .tags)) (fun t => t.dec.phase) = some 4 := by decide

/-! ### Single steps: error codes -/

theorem test_errNone :
    got (exec (.errNone .dec) ((decS 15 .start).withDec { (decS 15 .start).dec with err := 4, errInfo := 9 }))
      (fun t => (t.dec.phase, t.dec.err, t.dec.errInfo)) = some (15, 0, 0) := by decide
theorem test_malformedAudio :
    got (exec (.malformedAudio .dec) (decS 3 .tags)) (fun t => (t.dec.phase, t.dec.err, t.enc.err)) =
      some (15, 1, 0) := by decide
theorem test_invalidSampleRate :
    got (exec (.invalidSampleRate .enc) (encS 1 .start)) (fun t => (t.enc.phase, t.enc.err, t.dec.err)) =
      some (15, 2, 0) := by decide
theorem test_codecFailure :
    got (exec (.codecFailure .enc 8) (encS 2 .start)) (fun t => (t.enc.phase, t.enc.err, t.enc.errInfo)) =
      some (15, 3, 8) := by decide
theorem test_ioFailure :
    got (exec (.ioFailure .dec 0x55) (decS 4 .start)) (fun t => (t.dec.phase, t.dec.err, t.dec.errInfo)) =
      some (15, 4, 0x55) := by decide
theorem test_assertFail :
    got (exec (.assertFail .enc) (encS 3 .start)) (fun t => (t.enc.phase, t.enc.err)) = some (15, 5) := by decide
theorem test_illegalCommand :
    got (exec (.illegalCommand .enc) State.reset) (fun t => (t.enc.phase, t.enc.err)) = some (15, 6) ∧
      got (exec (.illegalCommand .enc) (encS 4 .start)) id = some (encS 4 .start) := by decide

/-! ### Single steps: the host -/

/-- 20_memory.md R40, 44_sequencing_and_access.md R182 (b): an element of PCM_OUT, and one that it does not have. -/
theorem test_readPcmOut :
    got (hostOp (.readPcmOut 1) { State.reset with pcmOut := [(0, 5), (1, 0xFFFF)] }) (fun t => t.readOut) = some 0xFFFF ∧
      hostOp (.readPcmOut 2) { State.reset with pcmOut := [(0, 5), (1, 0xFFFF)] } = .fault (.noSuchOutput 2) :=
  ⟨by decide, rfl⟩
/-- 10_state.md R15, R16: the codes of STATUS that the host reads. -/
theorem test_readStatus :
    got (hostOp (.read (.status .enc)) State.reset) (fun t => t.readOut) = some 0 ∧
      got (hostOp (.read (.status .enc)) (encS 7 .loop)) (fun t => t.readOut) = some 1 ∧
      got (hostOp (.read (.status .dec)) (decS 5 .start)) (fun t => t.readOut) = some 2 ∧
      got (hostOp (.read (.status .dec)) (decS 15 .start)) (fun t => t.readOut) = some 3 := by decide

/-! ### Witnesses: for each statement with hypotheses, values that meet them, clause by clause, at the boundaries -/

/-- ENC with these registers besides those of `encS`. -/
def encWith (f : Enc → Enc) (s : State) : State := s.withEnc (f s.enc)

/-- DEC with these registers besides those of `decS`. -/
def decWith (f : Dec → Dec) (s : State) : State := s.withDec (f s.dec)

/-- A state in `PER_CHANNEL` units. -/
def perChannel (s : State) : State := { s with params := { s.params with unitMode := .perChannel } }

/-- DecodeGivesBackEveryEncodedInstruction: the operands at the ends of what the encoding admits. -/
theorem wit_decodeEncode :
    WellFormed (.encode 2 0xFFFFFFFF) = true ∧ WellFormed (.scale16 65535 0 0) = true ∧
      WellFormed (.valrate 4294967295) = true ∧ WellFormed (.opusHead 1 0 0 0 0 []) = true ∧
      WellFormed (.opusHead 2 0xFFFF 0 0xFFFF 0xFF [1]) = true := by decide

/-- CommandsAndPacketsDecodeWithoutLoss. -/
theorem wit_noLoss :
    decode (.encCmd 0x0000FFFFFFFFFF01) = .instr (.encode 0xFF 0xFFFFFFFF) ∧
      decode (.decCmd 0x0000FFFFFFFF0002) = .instr (.decode 0xFFFFFFFF) ∧
      decode (.headPacket (headBytes ++ [7])) = .instr (.opusHead 2 312 16000 0xFF00 0 [7]) ∧
      decode (.tagsPacket (tagsBytes.take 12)) = .instr (.opusTags 4 []) := by decide

/-- StepRunsTheDecodedInstruction, clause by clause. -/
theorem wit_step :
    ({ encS 7 .loop with sched := [.enc, .host] }.sched = .enc :: [.host] ∧
      decode (encCode { encS 7 .loop with sched := [.enc, .host] }) = .instr .eMain) ∧
    ({ decS 4 .packet with sched := [.dec] }.sched = .dec :: [] ∧
      decode (decCode { decS 4 .packet with sched := [.dec] }) = .instr .dFrame) ∧
    ({ State.reset with sched := [.host], inputs := [.decCmd 0x00000000BB800002] }.inputs =
        .decCmd 0x00000000BB800002 :: [] ∧
      hostCode (.decCmd 0x00000000BB800002) = some (.decCmd 0x00000000BB800002) ∧
      decode (.decCmd 0x00000000BB800002) = .instr (.decode 48000)) ∧
    (State.reset.sched = [] ∧ hostCode (.conv 3 0 0 0) = some (.conv 3 0 0 0) ∧
      decode (.conv 3 0 0 0) = .instr .convReserved) := by decide

/-- StepRunsTheDecodedInstruction, the clauses without an instruction. -/
theorem wit_step_other :
    ({ State.reset with sched := [.host], inputs := [.setN 4] }.inputs = .setN 4 :: [] ∧ hostCode (.setN 4) = none ∧
      { State.reset with sched := [.host], inputs := [.setN 4] }.sched = .host :: []) ∧
    (State.reset.inputs = [] ∧ State.reset.sched = []) ∧
    ({ encS 11 .start with sched := [.enc] }.sched = .enc :: [] ∧
      decode (encCode { encS 11 .start with sched := [.enc] }) = .reservedEncPhase 11) ∧
    decode (encCode (encS 7 (.write 0 3 0))) = .reservedEndMark ∧
    decode (encCode (encS 7 (.error 7 0))) = .reservedErrCode ∧
    ({ decS 14 .start with sched := [.dec] }.sched = .dec :: [] ∧
      decode (decCode { decS 14 .start with sched := [.dec] }) = .reservedDecPhase 14) ∧
    decode (decCode (decS 4 (.error 7 0))) = .reservedErrCode := by decide

/-- PlacedWordIsFetchedNext: a packet of a length that fits. -/
theorem wit_placed : headBytes.length < 4294967296 ∧ ([] : List Byte).length < 4294967296 := by decide

/-- CommandIsAcceptedUnlessBusy and IllegalCommandWordsRaise: idle, done and error are not
busy; the words at the limits of each field. -/
theorem wit_commands :
    status .enc State.reset ≠ .busy ∧ status .enc (encS 10 .start) ≠ .busy ∧ status .enc (encS 15 .start) ≠ .busy ∧
      status .dec State.reset ≠ .busy ∧ status .dec (decS 5 .start) ≠ .busy ∧ status .dec (decS 15 .start) ≠ .busy ∧
      status .enc (encS 1 .start) = .busy ∧ status .enc (encS 9 .start) = .busy ∧
      status .dec (decS 1 .start) = .busy ∧ status .dec (decS 4 .start) = .busy ∧
      (2 : BitVec 8).toNat ≤ 2 ∧ (0 : BitVec 8).toNat ≤ 2 := by decide
theorem wit_illegal_words :
    (0x0000000000000002#64).toNat % 256 ≠ 1 ∧ (0x0001000000000001#64).toNat / 281474976710656 ≠ 0 ∧
      2 < (0x0000000000000301#64).toNat / 256 % 256 ∧ (0x0000000000000001#64).toNat % 256 ≠ 2 ∧
      (0x0001000000000002#64).toNat / 281474976710656 ≠ 0 ∧ (0x0000000000000102#64).toNat / 256 % 256 ≠ 0 := by decide
theorem wit_legal_words :
    ((0x0000FFFFFFFF0201#64).toNat % 256 = 1 ∧ (0x0000FFFFFFFF0201#64).toNat / 281474976710656 = 0 ∧
      (0x0000FFFFFFFF0201#64).toNat / 256 % 256 ≤ 2) ∧
    ((0x0000FFFFFFFF0002#64).toNat % 256 = 2 ∧ (0x0000FFFFFFFF0002#64).toNat / 281474976710656 = 0 ∧
      (0x0000FFFFFFFF0002#64).toNat / 256 % 256 = 0) := by decide

/-- Scale64DrivesTheFloorInsideItsDomain and Scale16DrivesTheFloorInsideItsDomain, at their boundaries. -/
theorem wit_scale :
    ((48000 : BitVec 32).toNat ≠ 0 ∧
      (384307168202282 : BitVec 64).toNat * (48000 : BitVec 32).toNat < 18446744073709551616) ∧
    18446744073709551616 ≤ (384307168202283 : BitVec 64).toNat * (48000 : BitVec 32).toNat ∧
    ((65535 : BitVec 64).toNat < 65536 ∧ (1 : BitVec 32).toNat ≠ 0 ∧
      (65535 : BitVec 64).toNat * (1 : BitVec 32).toNat / (1 : BitVec 32).toNat ≤ 65535) ∧
    65536 ≤ (65536 : BitVec 64).toNat ∧ (0 : BitVec 32).toNat = 0 ∧
    65535 < (16384 : BitVec 64).toNat * (48000 : BitVec 32).toNat / (12000 : BitVec 32).toNat := by decide

/-- ValrateAcceptsExactlyTheFiveRates, both sides of the first and last rate. -/
theorem wit_valrate :
    (8000 : BitVec 64).toNat ∈ [8000, 12000, 16000, 24000, 48000] ∧
      (48000 : BitVec 64).toNat ∈ [8000, 12000, 16000, 24000, 48000] ∧
      (7999 : BitVec 64).toNat ∉ [8000, 12000, 16000, 24000, 48000] ∧
      (4294975296 : BitVec 64).toNat ∉ [8000, 12000, 16000, 24000, 48000] := by decide

/-- ScaleIsMonotoneAndAlmostAdditive: a sum that gains one, equal rates, and zero. -/
theorem wit_scale_laws :
    (scale64 3 48000 8000 = some 0 ∧ scale64 3 48000 8000 = some 0 ∧ scale64 (3 + 3) 48000 8000 = some 1) ∧
      scale64 960 48000 48000 = some 960 ∧ scale64 0 48000 8000 = some 0 ∧
      (scale16 3 48000 8000 = some 0 ∧ scale16 (3 + 3) 48000 8000 = some 1) ∧
      scale16 65535 8000 8000 = some 65535 ∧ scale16 0 48000 8000 = some 0 := by decide

/-- RoundTripLosesAtMostTheTabledBound: the largest loss (X6). -/
theorem wit_roundTrip : scale64 5 48000 8000 = some 0 ∧ scale64 0 8000 48000 = some 0 := by decide

/-- ValidateChecksTheRateAndSetsTheChannels. -/
theorem wit_validate :
    (encS 1 .start).enc.rate.toNat ∈ [8000, 12000, 16000, 24000, 48000] ∧
      State.reset.enc.rate.toNat ∉ [8000, 12000, 16000, 24000, 48000] := by decide

/-- OpenConstructsThenSetsTheBitrate, clause by clause. -/
theorem wit_open :
    ((encS 2 .start).enc.pend = .start ∧
      (withEncScript ⟨[.ok ()], [], [], [], []⟩ (encS 2 .start)).opusEnc.script.construct = .ok () :: []) ∧
    (withEncScript ⟨[.err 1], [], [], [], []⟩ (encS 2 .start)).opusEnc.script.construct = .err 1 :: [] ∧
    (let s : State := { encS 2 .bitrate with opusEnc := ⟨some ⟨8000, 1, none⟩, ⟨[], [.ok ()], [], [], []⟩, []⟩ }
     s.enc.pend = .bitrate ∧ s.opusEnc.inst = some ⟨8000, 1, none⟩ ∧ s.opusEnc.script.bitrate = .ok () :: []) ∧
    (withEncScript ⟨[], [.err 1], [], [], []⟩ (encS 2 .bitrate)).opusEnc.script.bitrate = .err 1 :: [] := by decide

/-- LookaheadSetsTheTimelineRegisters: both units; the last lookahead in range and the first out of it; the last SKIP48 in
range and the first out of it (V20, V23). -/
theorem wit_look :
    (let s := withEncScript ⟨[], [], [.ok 10922], [], []⟩ (encS 3 .start)
     s.params.unitMode = .literal ∧ s.opusEnc.script.lookahead = .ok 10922 :: [] ∧ 10922 ≤ 65535 ∧
       s.enc.rate.toNat ≠ 0 ∧ s.enc.n.toNat + 10922 * 1 < 18446744073709551616 ∧
       10922 * 48000 / s.enc.rate.toNat ≤ 65535) ∧
    (let s := perChannel (withEncScript ⟨[], [], [.ok 10923], [], []⟩ (encS 3 .start))
     s.params.unitMode = .perChannel ∧ s.opusEnc.script.lookahead = .ok 10923 :: [] ∧ s.enc.rate.toNat ≠ 0 ∧
       s.enc.n.toNat + 10923 * s.enc.ch.toNat < 18446744073709551616 ∧ 65535 < 10923 * 48000 / s.enc.rate.toNat) ∧
    ((withEncScript ⟨[], [], [.ok 65536], [], []⟩ (encS 3 .start)).opusEnc.script.lookahead = .ok 65536 :: [] ∧
      65535 < 65536) ∧
    (withEncScript ⟨[], [], [.err 4], [], []⟩ (encS 3 .start)).opusEnc.script.lookahead = .err 4 :: [] := by decide

/-- SerialIsRandomXorInstance and SerialWithoutASuppliedSample. -/
theorem wit_serial : { State.reset with randIn := [1] }.randIn = 1 :: [] ∧ State.reset.randIn = [] := by decide

/-- IdHeaderIsComposedAndWritten and CommentHeaderIsComposedAndWritten. -/
theorem wit_headers :
    ((encS 5 .start).enc.phase = 5 ∧ (withWrite (.ok ()) (encS 5 .start)).oggWr.script = .ok () :: []) ∧
      ((encS 6 .start).enc.phase = 6 ∧ (withWrite (.ok ()) (encS 6 .start)).oggWr.script = .ok () :: [] ∧
        (encS 6 .start).params.vendor.length ≤ 3984) := by decide
/-- A state with a vendor string of so many bytes. -/
def vendorS (n : Nat) : State := { State.reset with params := { State.reset.params with vendor := List.replicate n 0 } }
theorem wit_vendor_boundary :
    (vendorS 3984).params.vendor.length ≤ 3984 ∧ 3984 < (vendorS 3985).params.vendor.length := by
  simp only [vendorS, List.length_replicate]
  decide

/-- The timeline of V61's shape: 52 slots of silence, 3 of input. -/
def timelineS : State :=
  encWith (fun e => { e with n := 3, skipSl := 52, total := 55 })
    { encS 8 .start with pcmIn := [(0, -5), (1, 7), (2, -32768)] }

/-- WindowIsSilenceThenInputThenPadding, at each edge. -/
theorem wit_window :
    timelineS.enc.total.toNat = timelineS.enc.n.toNat + timelineS.enc.skipSl.toNat ∧ 51 < timelineS.enc.skipSl.toNat ∧
      timelineS.enc.skipSl.toNat ≤ 52 ∧ 54 < timelineS.enc.total.toNat ∧ timelineS.enc.total.toNat ≤ 55 ∧
      Memory.read timelineS.pcmIn (52 - 52) = some (-5) ∧ 54 - 52 ∉ timelineS.enc.raced := by decide

/-- FrameFillCopiesTheWindow: a frame across the end of the timeline; the capacity; a TOTAL beyond the input, where the third
slot of the frame is the first outside it. -/
theorem wit_frameFill :
    (∀ j < 8, (window timelineS (50 + j)).isSome = true) ∧ 1920 ≤ 1920 ∧ 1920 < 1921 ∧
    (let s := encWith (fun e => { e with total := 57 }) timelineS
     2 < 8 ∧ 8 ≤ 1920 ∧ (∀ k < 2, (window s (53 + k)).isSome = true) ∧ s.enc.skipSl.toNat ≤ 53 + 2 ∧
       53 + 2 < s.enc.total.toNat ∧ s.enc.n.toNat ≤ 53 + 2 - s.enc.skipSl.toNat) := by decide

/-- MainLoopCountsWholeFrames, clause by clause. -/
theorem wit_main :
    ((encS 7 .start).enc.pend = .start ∧ (encS 7 .start).enc.rate.toNat ∈ [8000, 12000, 16000, 24000, 48000] ∧
      ((encS 7 .start).enc.ch = 1 ∨ (encS 7 .start).enc.ch = 2)) ∧
    (let s := encWith (fun e => { e with fsz := 160, max := 2, idx := 1 }) (encS 7 .loop)
     s.enc.pend = .loop ∧ s.enc.idx.toNat < s.enc.max.toNat) ∧
    (let s := encWith (fun e => { e with fsz := 160, max := 2, idx := 2 }) (encS 7 .loop)
     s.enc.max.toNat ≤ s.enc.idx.toNat ∧ s.enc.max.toNat * s.enc.fsz.toNat < 18446744073709551616) := by decide

/-- TailPicksTheLongestFittingDuration: at 8000 Hz mono, 20 slots left hold 2.5 ms exactly and 19 hold nothing. -/
theorem wit_tail :
    (encS 8 .start).enc.pend = .start ∧
    (let s := encWith (fun e => { e with pos := 140, total := 160 }) (encS 8 .start)
     20 ∈ [s.enc.rate.toNat / 50, s.enc.rate.toNat / 100, s.enc.rate.toNat / 200, s.enc.rate.toNat / 400] ∧
      s.enc.pos.toNat + 20 * s.enc.ch.toNat ≤ s.enc.total.toNat ∧
      ∀ d' ∈ [s.enc.rate.toNat / 50, s.enc.rate.toNat / 100, s.enc.rate.toNat / 200, s.enc.rate.toNat / 400],
        s.enc.pos.toNat + d' * s.enc.ch.toNat ≤ s.enc.total.toNat → d' ≤ 20) ∧
    (let s := encWith (fun e => { e with pos := 140, total := 159 }) (encS 8 .start)
     ∀ d' ∈ [s.enc.rate.toNat / 50, s.enc.rate.toNat / 100, s.enc.rate.toNat / 200, s.enc.rate.toNat / 400],
        s.enc.total.toNat < s.enc.pos.toNat + d' * s.enc.ch.toNat) := by decide

/-- FinalPadsTheRemainderOrCompletes, both clauses where they meet. -/
theorem wit_final :
    (encS 9 .start).enc.pend = .start ∧
    (encWith (fun e => { e with pos := 151, total := 152 }) (encS 9 .start)).enc.pos.toNat < 152 ∧
    152 ≤ (encWith (fun e => { e with pos := 152, total := 152 }) (encS 9 .start)).enc.pos.toNat := by decide

/-- A state with a frame of 160 slots at OPUSENC and one byte as its answer. -/
def encodingS (phase : BitVec 4) : State :=
  withEncScript ⟨[], [], [], [.ok [0x2A]], []⟩
    (encWith (fun e => { e with n := 320, total := 320, fs := 160, fsz := 160, max := 2, idx := 1 })
      (encS phase (.encode 160)))

/-- The same with the frame encoded and its final range about to come. -/
def rangingS : State :=
  withEncScript ⟨[], [], [], [], [7]⟩ (encWith (fun e => { e with pend := .range 1 160 }) (diagOn (encodingS 8)))

/-- MainPacketCarriesItsGranuleAndMarker: the last frame, ending at TOTAL (160 samples are 960 at 48000 Hz). -/
theorem wit_mainPacket :
    (encodingS 7).enc.pend = .encode 160 ∧ (encodingS 7).opusEnc.script.encode = .ok [0x2A] :: [] ∧
      ([0x2A] : List Byte).length ≤ 4000 ∧ (encodingS 7).params.diagEn = false ∧ (encodingS 7).enc.rate.toNat ≠ 0 ∧
      ((encodingS 7).enc.skip.toNat + ((encodingS 7).enc.idx.toNat + 1) * (encodingS 7).enc.fs.toNat) * 48000 <
        18446744073709551616 ∧
      (1920 : BitVec 64).toNat =
        ((encodingS 7).enc.skip.toNat + ((encodingS 7).enc.idx.toNat + 1) * (encodingS 7).enc.fs.toNat) * 48000 /
          (encodingS 7).enc.rate.toNat := by decide

/-- TailPacketCarriesTheRunningPosition, in both units. -/
theorem wit_tailPacket :
    (let s := encodingS 8
     s.params.unitMode = .literal ∧ s.enc.pend = .encode 160 ∧ s.opusEnc.script.encode = .ok [0x2A] :: [] ∧
       s.params.diagEn = false ∧ s.enc.rate.toNat ≠ 0 ∧ (160 : BitVec 64).toNat = s.enc.pos.toNat + 160 ∧
       (160 : BitVec 64).toNat / 1 * 48000 < 18446744073709551616 ∧
       (960 : BitVec 64).toNat = (160 : BitVec 64).toNat / 1 * 48000 / s.enc.rate.toNat) ∧
    (let s := perChannel (encWith (fun e => { e with ch := 2 }) (encodingS 8))
     s.params.unitMode = .perChannel ∧ s.enc.ch.toNat = 2 ∧ s.enc.pend = .encode 160 ∧
       (160 : BitVec 64).toNat = s.enc.pos.toNat + 160 ∧
       (480 : BitVec 64).toNat = (160 : BitVec 64).toNat / 2 * 48000 / s.enc.rate.toNat) := by decide

/-- FinalPacketCarriesTheTotal. -/
theorem wit_finalPacket :
    (encodingS 9).params.unitMode = .literal ∧ (encodingS 9).enc.pend = .encode 160 ∧
      (encodingS 9).opusEnc.script.encode = .ok [0x2A] :: [] ∧ (encodingS 9).params.diagEn = false ∧
      (encodingS 9).enc.rate.toNat ≠ 0 ∧ (encodingS 9).enc.total.toNat / 1 * 48000 < 18446744073709551616 ∧
      (1920 : BitVec 64).toNat = (encodingS 9).enc.total.toNat / 1 * 48000 / (encodingS 9).enc.rate.toNat := by decide

/-- EncodeTransactionFailures, at the packet capacity. -/
theorem wit_encodeFailures :
    (withEncScript ⟨[], [], [], [.err 6], []⟩ (encS 7 (.encode 160))).opusEnc.script.encode = .err 6 :: [] ∧
      (withEncScript ⟨[], [], [], [.err 6], []⟩ (encS 7 (.encode 160))).enc.pend = .encode 160 ∧
      (encS 9 (.encode 160)).enc.pend = .encode 160 := by decide

/-- FinalRangeIsReadAfterEachFrame: the encode answer with the diagnostic, and the final range in each phase. -/
theorem wit_encodeRange :
    ((diagOn (encodingS 8)).enc.pend = .encode 160 ∧ (diagOn (encodingS 8)).params.diagEn = true ∧
      (diagOn (encodingS 8)).opusEnc.script.encode = .ok [0x2A] :: [] ∧ ([0x2A] : List Byte).length ≤ 4000) ∧
    (let s := rangingS
     s.enc.pend = .range 1 160 ∧ s.opusEnc.script.range = 7 :: [] ∧ s.enc.rate.toNat ≠ 0 ∧
       s.params.unitMode = .literal ∧
       (1920 : BitVec 64).toNat =
         (s.enc.skip.toNat + (s.enc.idx.toNat + 1) * s.enc.fs.toNat) * 48000 / s.enc.rate.toNat ∧
       (s.enc.skip.toNat + (s.enc.idx.toNat + 1) * s.enc.fs.toNat) * 48000 < 18446744073709551616 ∧
       (160 : BitVec 64).toNat = s.enc.pos.toNat + 160 ∧
       (160 : BitVec 64).toNat / 1 * 48000 < 18446744073709551616 ∧
       (960 : BitVec 64).toNat = (160 : BitVec 64).toNat / 1 * 48000 / s.enc.rate.toNat ∧
       s.enc.total.toNat / 1 * 48000 < 18446744073709551616 ∧
       (1920 : BitVec 64).toNat = s.enc.total.toNat / 1 * 48000 / s.enc.rate.toNat) := by decide

/-- GranuleOutsideTheDomainAsserts: positions at the first value outside (V13's), on both routes. -/
theorem wit_granule :
    (let s := encWith (fun e => { e with fs := 384307168202283, idx := 0, total := 384307168202283 }) (encodingS 7)
     s.params.unitMode = .literal ∧ s.enc.pend = .encode 160 ∧ s.opusEnc.script.encode = .ok [0x2A] :: [] ∧
       ([0x2A] : List Byte).length ≤ 4000 ∧ s.params.diagEn = false ∧
       18446744073709551616 ≤ (s.enc.skip.toNat + (s.enc.idx.toNat + 1) * s.enc.fs.toNat) * 48000 ∧
       18446744073709551616 ≤ s.enc.total.toNat / 1 * 48000) ∧
    (let s := encWith (fun e => { e with pos := 384307168202123 }) rangingS
     s.enc.pend = .range 1 160 ∧ s.opusEnc.script.range = 7 :: [] ∧
       (384307168202283 : BitVec 64).toNat = s.enc.pos.toNat + 160 ∧
       18446744073709551616 ≤ (384307168202283 : BitVec 64).toNat / 1 * 48000) ∧
    (let s := perChannel (encWith (fun e => { e with ch := 0, rate := 0 }) rangingS)
     s.params.unitMode = .perChannel ∧ s.enc.ch.toNat = 0 ∧ s.enc.rate.toNat = 0) := by decide

/-- WritePacketEmitsAndGoesOn: each phase with a posted packet, each answer. -/
theorem wit_write :
    (encS 5 (.write 19 1 0)).enc.pend = .write 19 1 0 ∧ (encS 5 (.write 19 1 0)).enc.phase = 5 ∧
      (encS 6 (.write 20 1 0)).enc.phase = 6 ∧
      ((encS 7 (.write 1 0 6)).enc.phase = 7 ∧
        (encWith (fun e => { e with idx := 18446744073709551614 }) (encS 7 (.write 1 0 6))).enc.idx.toNat + 1 <
          18446744073709551616) ∧
      (encS 8 (.write 1 0 6)).enc.phase = 8 ∧ (encS 9 (.write 1 2 6)).enc.phase = 9 ∧
      (withWrite (.ok ()) (encS 9 (.write 1 2 6))).oggWr.script = .ok () :: [] ∧
      (withWrite (.err 1) (encS 9 (.write 1 2 6))).oggWr.script = .err 1 :: [] := by decide

/-- TailFitsStrictlyFall: at 48000 Hz stereo one slot below a 20 ms frame is left; the fits are 10 ms, then 5 ms. -/
theorem wit_tailFits :
    1919 - 0 < 48000 / 50 * 2 ∧ tailPick 48000 2 0 1919 = some 480 ∧ tailPick 48000 2 (0 + 480 * 2) 1919 = some 240 := by
  decide

/-- HeaderPacketsAreRead and FrameLoopReadsUntilExhausted, answer by answer. -/
theorem wit_reads :
    (withRead (.packet headBytes 0 false) (decS 1 .start)).oggRd.script = .packet headBytes 0 false :: [] ∧
      headBytes.length < 4294967296 ∧ (withRead .exhausted (decS 3 .start)).oggRd.script = .exhausted :: [] ∧
      (withRead (.err 7) (decS 4 .start)).oggRd.script = .err 7 :: [] ∧ (decS 4 .start).dec.pend = .start := by decide

/-- FirstPacketIsCheckedAndTaken and SecondPacketIsChecked: packets at the length limits. -/
theorem wit_headerChecks :
    (19 ≤ headBytes.length ∧ headBytes.take 8 = [0x4F, 0x70, 0x75, 0x73, 0x48, 0x65, 0x61, 0x64] ∧
      headBytes.getD 8 0 = 1 ∧ headBytes.getD 9 0 = 2) ∧
    ¬ (19 ≤ (headBytes.take 18).length) ∧
    (12 ≤ (tagsBytes.take 12).length ∧
      (tagsBytes.take 12).take 8 = [0x4F, 0x70, 0x75, 0x73, 0x54, 0x61, 0x67, 0x73]) ∧
    ¬ (12 ≤ (tagsBytes.take 11).length) := by decide

/-- HeaderOperationsCompleteTheirPhase: the channel bytes around the limits. -/
theorem wit_headerOps :
    ((2 : BitVec 8) = 1 ∨ (2 : BitVec 8) = 2) ∧ ((3 : BitVec 8) ≠ 1 ∧ (3 : BitVec 8) ≠ 2) ∧
      ((0 : BitVec 8) ≠ 1 ∧ (0 : BitVec 8) ≠ 2) := by decide

/-- DecoderOpensAfterValidation, clause by clause. -/
theorem wit_decOpen :
    ((decS 2 .start).dec.pend = .start ∧ (decS 2 .start).dec.tRate.toNat ∈ [8000, 12000, 16000, 24000, 48000] ∧
      State.reset.dec.tRate.toNat ∉ [8000, 12000, 16000, 24000, 48000] ∧ State.reset.dec.pend = .start) ∧
    (withDecScript ⟨[.ok ()], [], [], []⟩ (decS 2 .start)).opusDec.script.construct = .ok () :: [] ∧
    (withDecScript ⟨[.err 1], [], [], []⟩ (decS 2 .start)).opusDec.script.construct = .err 1 :: [] ∧
    (let s : State := { decS 2 .gain with opusDec := ⟨some ⟨8000, 1, none⟩, ⟨[], [.ok ()], [], []⟩, []⟩ }
     s.dec.pend = .gain ∧ s.opusDec.inst = some ⟨8000, 1, none⟩ ∧ s.opusDec.script.gain = .ok () :: []) ∧
    (withDecScript ⟨[], [.err 1], [], []⟩ (decS 2 .gain)).opusDec.script.gain = .err 1 :: [] := by decide

/-- DecodedFrameIsTrimmedAndAppended, clause by clause, with the sample count and the granule position at their limits. -/
theorem wit_decoded :
    ((decS 4 .packet).dec.pend = .packet ∧ (decS 4 .packet).params.diagEn = false) ∧
    (withDecScript ⟨[], [], [.err 2], []⟩ (decS 4 .packet)).opusDec.script.decode = .err 2 :: [] ∧
    (withDecScript ⟨[], [], [.ok ⟨5760, []⟩], []⟩ (decS 4 .packet)).opusDec.script.decode = .ok ⟨5760, []⟩ :: [] ∧
    (5760 ≤ 5760 ∧ 5760 < 5761) ∧
    (decWith (fun d => { d with pktGran := 2305843009213693 }) (decS 4 .packet)).dec.pktGran.toNat *
        (decS 4 .packet).dec.tRate.toNat < 18446744073709551616 ∧
    18446744073709551616 ≤ (decWith (fun d => { d with pktGran := 2305843009213694 }) (decS 4 .packet)).dec.pktGran.toNat *
        (decS 4 .packet).dec.tRate.toNat := by decide

/-- FinalRangeIsReadAfterEachDecodedFrame, clause by clause, the granule position at its limits. -/
theorem wit_decodeRange :
    ((diagOn (decS 4 .packet)).params.diagEn = true ∧ (diagOn (decS 4 .packet)).dec.pend = .packet) ∧
    (withDecScript ⟨[], [], [.err 2], []⟩ (diagOn (decS 4 .packet))).opusDec.script.decode = .err 2 :: [] ∧
    ((withDecScript ⟨[], [], [.ok ⟨5761, []⟩], []⟩ (diagOn (decS 4 .packet))).opusDec.script.decode =
      .ok ⟨5761, []⟩ :: [] ∧ 5760 < 5761) ∧
    ((withDecScript ⟨[], [], [.ok ⟨5760, []⟩], []⟩ (diagOn (decS 4 .packet))).opusDec.script.decode =
      .ok ⟨5760, []⟩ :: [] ∧ 5760 ≤ 5760) ∧
    ((decS 4 .range).dec.pend = .range ∧
      (withDecScript ⟨[], [], [], [7]⟩ (decS 4 .range)).opusDec.script.range = 7 :: [] ∧
      (decWith (fun d => { d with pktGran := 2305843009213693 }) (decS 4 .range)).dec.pktGran.toNat *
        (decS 4 .range).dec.tRate.toNat < 18446744073709551616 ∧
      18446744073709551616 ≤ (decWith (fun d => { d with pktGran := 2305843009213694 }) (decS 4 .range)).dec.pktGran.toNat *
        (decS 4 .range).dec.tRate.toNat) := by decide

/-- FrameOutCountsTrimsSkipsAppends: V70 (one above the frame), V69 (equal to it), V68 (under-run), V71 to V73. -/
theorem wit_frameOut :
    (let s := decWith (fun d => { d with totalDec := 6, skipRem := 312, ch := 2 }) (decS 4 .packet)
     (9 : BitVec 64).toNat = s.dec.totalDec.toNat + 3 ∧
       (5 < (9 : BitVec 64).toNat ∧ 3 < (9 : BitVec 64).toNat - 5) ∧
       (6 < (9 : BitVec 64).toNat ∧ (9 : BitVec 64).toNat - 6 ≤ 3 ∧ 0 = 3 - ((9 : BitVec 64).toNat - 6) ∧
         0 = min 0 s.dec.skipRem.toNat) ∧
       ((9 : BitVec 64).toNat ≤ 9 ∧ 3 = min 3 s.dec.skipRem.toNat ∧
         s.dec.outLen.toNat + (3 - 3) * s.dec.ch.toNat < 18446744073709551616)) ∧
    (let s := decWith (fun d => { d with skipRem := 312, ch := 2 }) (decS 4 .packet)
     (960 : BitVec 64).toNat = s.dec.totalDec.toNat + 960 ∧ 312 = min 960 s.dec.skipRem.toNat ∧
       312 = min 312 s.dec.skipRem.toNat ∧
       s.dec.outLen.toNat + (960 - 312) * s.dec.ch.toNat < 18446744073709551616) := by decide

/-- InterleavingIsABijectionOfFrames (V60). -/
theorem wit_interleave : 0 < 2 ∧ ilv 2 3 1 = 7 ∧ dilv 2 6 = (3, 0) ∧ ilv 1 5 0 = 5 := by decide

/-- OutputLengthIsDeclaredLengthLessPreSkip: the three frames of V78 with a last frame of 40 at the declared end 380. -/
theorem wit_outputLength :
    (decS 4 .start).dec.outLen = 0 ∧ (decS 4 .start).dec.totalDec = 0 ∧
      ([(120, 0), (120, 0), (120, 0)].map Prod.fst).sum = 360 ∧ 360 < 18446744073709551616 ∧
      360 * (decS 4 .start).dec.ch.toNat < 18446744073709551616 ∧ 360 ≤ 380 ∧ 380 ≤ 360 + 40 := by decide

/-- UnansweredPortsKeepThePipelineWaiting: nothing attached, each wait. -/
theorem wit_waiting :
    (encS 2 .start).opusEnc.script.construct = [] ∧ (encS 2 .bitrate).opusEnc.script.bitrate = [] ∧
      (encS 3 .start).opusEnc.script.lookahead = [] ∧ (encS 7 (.encode 160)).opusEnc.script.encode = [] ∧
      (encS 7 (.range 1 160)).opusEnc.script.range = [] ∧ (encS 7 (.write 1 0 0)).oggWr.script = [] ∧
      (decS 1 .start).oggRd.script = [] ∧ (decS 2 .start).opusDec.script.construct = [] ∧
      (decS 2 .gain).opusDec.script.gain = [] ∧ (decS 4 .packet).opusDec.script.decode = [] ∧
      (decS 4 .range).opusDec.script.range = [] ∧
      (decS 2 .start).dec.tRate.toNat ∈ [8000, 12000, 16000, 24000, 48000] := by decide

/-- EveryInstructionCompletes: E_TAGS with a vendor string of the limit's length is `wit_vendor_boundary`. -/
theorem wit_completes : Instr.eTags = Instr.eTags ∧ State.reset.params.vendor.length ≤ 3984 := by decide

/-- HostKeepsTheRegistersOfABusyPipeline: operations that are not RESET, with a next state. -/
theorem wit_host : HostOp.setN 4 ≠ HostOp.reset ∧ HostOp.loadPcm 0 [1] ≠ HostOp.reset ∧
    status .enc (encS 7 .loop) = .busy ∧ status .enc State.reset ≠ .busy ∧
    (got (hostOp (.loadPcm 0 [1]) (encS 7 .loop)) (fun t => t.enc.raced)) = some [0] := by decide

/-- HostOperationsDoWhatTheyName, clause by clause; the last element that PCM_OUT has and the first it has not. -/
theorem wit_hostOps :
    status .enc State.reset ≠ .busy ∧ status .enc (encS 7 .loop) = .busy ∧
      Memory.read { State.reset with pcmOut := [(0, 5), (1, 7)] }.pcmOut 1 = some 7 ∧
      Memory.read { State.reset with pcmOut := [(0, 5), (1, 7)] }.pcmOut 2 = none ∧
      doneOut .enc (encS 10 .start) = true ∧ doneOut .dec (decS 4 .start) = false := by decide

/-- PipelinesShareNoState and PipelineStepsCommute: an instruction of each, with a next state. -/
theorem wit_pipelines :
    pipeOf .eSerial = some .enc ∧ pipeOf .dTags = some .dec ∧ pipeOf (.malformedAudio .dec) = some .dec ∧
      (got (exec .eSerial (encS 4 .start)) (fun t => t.enc.phase)).isSome = true ∧
      (got (exec .dTags (encS 4 .start)) (fun t => t.dec.phase)).isSome = true := by decide

/-- EveryStepKeepsTheDataSound: a sound state in the middle of both commands, and it has a next step. -/
theorem wit_inv :
    Inv { encS 7 (.write 1 2 6) with
      dec := { (decS 4 .packet).dec with scratch := [(11519, 1)] }
      enc := { (encS 7 (.write 1 2 6)).enc with frameBuf := [(0, 1), (1919, 2)], pktBuf := [(3999, 7)] }
      pcmIn := [(0, 3), (5, 4)]
      opusEnc := ⟨some ⟨8000, 1, none⟩, ⟨[], [], [], [], []⟩, []⟩ } := by
  constructor <;> first | decide | exact ⟨by decide, by decide⟩ | trivial
theorem wit_inv_step : (got (step { encS 7 .loop with sched := [.enc] }) (fun t => t.enc.phase)).isSome = true := by decide

/-- OnlyACommandOrResetLeavesRest: ENC done and DEC in error, and a command word that starts ENC. -/
theorem wit_rest :
    Inv { encS 10 .start with
      dec := (decS 15 .start).dec, inputs := [.encCmd 0x00000000BB800101] } := by
  constructor <;> first | decide | trivial
theorem wit_rest_step :
    let s : State := { encS 10 .start with dec := (decS 15 .start).dec, inputs := [.encCmd 0x00000000BB800101] }
    status .enc s ≠ .busy ∧ status .dec s ≠ .busy ∧ got (step s) (fun t => t.enc.phase) = some 1 := by decide

/-- EveryStepKeepsTheTimeline: a state in E_TAIL with a frame at OPUSENC. -/
theorem wit_timeline :
    TimelineInv { (encS 8 (.encode 80)).enc with n := 100, skipSl := 52, total := 152, pos := 0 } := by
  constructor
  case validated => decide
  case cmdCh_le => decide
  case total_eq => decide
  case tail_pos => decide
  case tail_encode =>
    intro _ slots h
    cases h
    decide
  case tail_range =>
    intro _ len slots h
    cases h
  all_goals
    intro h
    exact absurd h (by decide)

/-- EveryStepKeepsTheOutputWhole: two elements of a stereo output. -/
theorem wit_output :
    OutputInv { decS 4 .start with
      dec := { (decS 4 .start).dec with ch := 2, outLen := 2 }, pcmOut := [(0, 5), (1, 7)] } := by
  refine ⟨fun a => ?_, by decide, by decide⟩
  match a with
  | 0 => decide
  | 1 => decide
  | a + 2 =>
    simp only [Memory.read]
    rw [if_neg (by omega), if_neg (by omega)]
    constructor
    · intro h; cases h
    · intro h
      have : a + 2 < 2 := h
      omega

end Sys2Proof.Tests
end

