-- ==== Sys2Proof/Proofs/Status.lean ====
section
/-! PROOF. STATUS and DONE_OUT as functions of PHASE (10_state.md R15; 60_exceptions.md R208). -/

namespace Sys2Proof.Proofs

open Sys2Proof.Machine

/-- The rule R15 gives both pipelines, which differ only in the code `d` of their `*_DONE` phase. -/
def statusWithDone (d c : BitVec 4) : Status :=
  if c = 0 then .idle else if c = d then .done else if c = 15 then .error else .busy

theorem status_enc (s : State) : status .enc s = statusWithDone 10 s.enc.phase := rfl

theorem status_dec (s : State) : status .dec s = statusWithDone 5 s.dec.phase := rfl

theorem code_statusWithDone (d c : BitVec 4) :
    (statusWithDone d c).code = if c = 0 then 0 else if c = d then 2 else if c = 15 then 3 else 1 := by
  unfold statusWithDone
  split_ifs <;> rfl

theorem statusWithDone_eq_idle_iff {d c : BitVec 4} : statusWithDone d c = .idle ↔ c = 0 := by
  unfold statusWithDone
  split_ifs with idle
  · exact iff_of_true rfl idle
  all_goals exact iff_of_false nofun idle

/-- R15's cases are tried in order, so `*_DONE` is seen only because its code is not that of `*_IDLE`. -/
theorem statusWithDone_eq_done_iff {d c : BitVec 4} (hd : d ≠ 0) : statusWithDone d c = .done ↔ c = d := by
  unfold statusWithDone
  split_ifs with idle done
  · exact iff_of_false nofun (idle ▸ hd.symm)
  · exact iff_of_true rfl done
  all_goals exact iff_of_false nofun done

/-- `*_ERROR` is seen only because its code is not that of `*_DONE`. -/
theorem statusWithDone_eq_error_iff {d c : BitVec 4} (hd : d ≠ 15) : statusWithDone d c = .error ↔ c = 15 := by
  unfold statusWithDone
  split_ifs with idle done error
  · exact iff_of_false nofun (idle ▸ by decide)
  · exact iff_of_false nofun (done ▸ hd)
  · exact iff_of_true rfl error
  · exact iff_of_false nofun error

theorem doneOut_eq_true_iff (p : Pipe) (s : State) :
    doneOut p s = true ↔ status p s = .done ∨ status p s = .error := by
  simp only [doneOut, Bool.or_eq_true, decide_eq_true_eq]

/-- Settles O50: both pipelines follow the one rule `statusWithDone`, with 10 and 5 as the codes of `*_DONE`. -/
theorem statusFollowsPhase : Obligations.StatusFollowsPhase := by
  intro s
  rw [status_enc, status_dec]
  exact ⟨code_statusWithDone .., code_statusWithDone ..,
    statusWithDone_eq_idle_iff, statusWithDone_eq_done_iff (by decide), statusWithDone_eq_error_iff (by decide),
    statusWithDone_eq_idle_iff, statusWithDone_eq_done_iff (by decide), statusWithDone_eq_error_iff (by decide),
    fun p => doneOut_eq_true_iff p s⟩

end Sys2Proof.Proofs
end

section
/-! PROOF. What CONV's two scale operations drive, and what a round trip of a position loses (40_convert.md R90, R91,
R94, R98). -/

namespace Sys2Proof.Proofs

open Sys2Proof.Machine

/-! ### The port's outputs -/

theorem driveConv_none (s : State) : driveConv none s = { s with convOut := ⟨0, false⟩ } := rfl

/-- RESULT holds the driven number itself because it fits in the port's 64 bits. -/
theorem driveConv_some_of_lt {n : Nat} (fits : n < 2 ^ 64) (s : State) :
    ∃ r : BitVec 64, r.toNat = n ∧ driveConv (some n) s = { s with convOut := ⟨r, true⟩ } :=
  ⟨BitVec.ofNat 64 n, (BitVec.toNat_ofNat ..).trans (Nat.mod_eq_of_lt fits), rfl⟩

theorem exec_scale64 (v : BitVec 64) (src dst : BitVec 32) (s : State) :
    exec (.scale64 v src dst) s = .next (driveConv (scale64 v.toNat src.toNat dst.toNat) s) := rfl

theorem exec_scale16_of_lt {v : BitVec 64} (narrow : v.toNat < 65536) (src dst : BitVec 32) (s : State) :
    exec (.scale16 v src dst) s = .next (driveConv (scale16 v.toNat src.toNat dst.toNat) s) :=
  congrArg (fun r => Host.Outcome.next (driveConv r s)) (if_pos narrow)

theorem exec_scale16_of_le {v : BitVec 64} (wide : 65536 ≤ v.toNat) (src dst : BitVec 32) (s : State) :
    exec (.scale16 v src dst) s = .next (driveConv none s) :=
  congrArg (fun r => Host.Outcome.next (driveConv r s)) (if_neg (Nat.not_lt.mpr wide))

/-- Settles O10: the quotient fits in RESULT because the domain already bounds its dividend. -/
theorem scale64DrivesTheFloorInsideItsDomain : Obligations.Scale64DrivesTheFloorInsideItsDomain := by
  intro v src dst s
  rw [exec_scale64]
  constructor
  · intro nonzero bound
    rw [(scale64_eq_some ..).mpr ⟨nonzero, bound, rfl⟩]
    obtain ⟨r, value, driven⟩ := driveConv_some_of_lt (Nat.lt_of_le_of_lt (Nat.div_le_self _ src.toNat) bound) s
    exact ⟨r, value, congrArg _ driven⟩
  · intro outside
    rw [(scale64_eq_none ..).mpr outside, driveConv_none]

/-- Settles O11: a VALUE above 16 bits never reaches the scale, and a narrower one meets the scale's own domain. -/
theorem scale16DrivesTheFloorInsideItsDomain : Obligations.Scale16DrivesTheFloorInsideItsDomain := by
  intro v src dst s
  constructor
  · intro narrow nonzero bound
    rw [exec_scale16_of_lt narrow, (scale16_eq_some ..).mpr ⟨nonzero, bound, rfl⟩]
    obtain ⟨r, value, driven⟩ := driveConv_some_of_lt (Nat.lt_of_le_of_lt bound (by decide)) s
    exact ⟨r, value, congrArg _ driven⟩
  · intro outside
    rcases Nat.lt_or_ge v.toNat 65536 with narrow | wide
    · have beyond := outside.resolve_left (Nat.not_le.mpr narrow)
      rw [exec_scale16_of_lt narrow, (scale16_eq_none ..).mpr beyond, driveConv_none]
    · rw [exec_scale16_of_le wide, driveConv_none]

/-! ### The round trip of a position -/

/-- What a round trip through two rates can lose, with their common factor taken out. -/
def roundTripLoss (a b : Nat) : Nat :=
  (a / a.gcd b + b / a.gcd b - 2) / (b / a.gcd b)

theorem mul_div_gcd_div_gcd (x : Nat) {g a b : Nat} (ha : g ∣ a) (hb : g ∣ b) :
    x * (b / g) / (a / g) = x * b / a := by
  rw [← Nat.mul_div_assoc x hb, Nat.div_div_eq_div_mul, Nat.mul_div_cancel' ha]

theorem mul_div_mul_div_le (x p q : Nat) : x * q / p * p / q ≤ x :=
  Nat.div_le_of_le_mul (Nat.mul_comm q x ▸ Nat.div_mul_le_self (x * q) p)

/-- The two floors drop at most `p - 1` and `q - 1`, counted in `q`-ths of a sample of the first rate. -/
theorem le_mul_div_mul_div_add {p q : Nat} (hp : 0 < p) (hq : 0 < q) (x : Nat) :
    x ≤ x * q / p * p / q + (p + q - 2) / q := by
  have there : x * q < x * q / p * p + p := Nat.lt_div_mul_add hp
  have back : x * q / p * p < x * q / p * p / q * q + q := Nat.lt_div_mul_add hq
  calc x ≤ (x * q / p * p / q * q + (p + q - 2)) / q := (Nat.le_div_iff_mul_le hq).mpr (by omega)
    _ = x * q / p * p / q + (p + q - 2) / q := by rw [Nat.mul_comm _ q, Nat.mul_add_div hq]

/-- R98 for every two rates: the supported ones serve only as the table's index. -/
theorem le_mul_div_mul_div_add_roundTripLoss {a b : Nat} (ha : 0 < a) (hb : 0 < b) (x : Nat) :
    x ≤ x * b / a * a / b + roundTripLoss a b := by
  have da := Nat.gcd_dvd_left a b
  have db := Nat.gcd_dvd_right a b
  have reduced := le_mul_div_mul_div_add (Nat.div_gcd_pos_of_pos_left b ha) (Nat.div_gcd_pos_of_pos_right a hb) x
  rwa [mul_div_gcd_div_gcd x da db, mul_div_gcd_div_gcd _ db da] at reduced

/-- R98's table, entry by entry, is the closed form. -/
theorem roundTripBound_eq_roundTripLoss :
    ∀ a ∈ Config.rates, ∀ b ∈ Config.rates, roundTripBound a b = roundTripLoss a b := by decide

/-- Some position below the largest ratio of two supported rates, 48000 / 8000, loses the whole bound. -/
theorem exists_roundTrip_loses_roundTripBound :
    ∀ a ∈ Config.rates, ∀ b ∈ Config.rates, ∃ x < 6, x = x * b / a * a / b + roundTripBound a b := by decide

theorem pos_of_mem_rates : ∀ a ∈ Config.rates, 0 < a := by decide

theorem le_of_mem_rates : ∀ a ∈ Config.rates, a ≤ 48000 := by decide

theorem scale64_roundTrip {a b x y z : Nat} (there : scale64 x a b = some y) (back : scale64 y b a = some z) :
    0 < a ∧ 0 < b ∧ z = x * b / a * a / b := by
  obtain ⟨ha, -, rfl⟩ := (scale64_eq_some ..).mp there
  obtain ⟨hb, -, rfl⟩ := (scale64_eq_some ..).mp back
  exact ⟨Nat.pos_of_ne_zero ha, Nat.pos_of_ne_zero hb, rfl⟩

/-- The way back stays in the domain when the way there does, its product being no larger. -/
theorem scale64_roundTrip_of_lt {a b x : Nat} (ha : 0 < a) (hb : 0 < b) (fits : x * b < 2 ^ 64) :
    scale64 x a b = some (x * b / a) ∧ scale64 (x * b / a) b a = some (x * b / a * a / b) :=
  ⟨(scale64_eq_some ..).mpr ⟨ha.ne', fits, rfl⟩,
    (scale64_eq_some ..).mpr ⟨hb.ne', Nat.lt_of_le_of_lt (Nat.div_mul_le_self (x * b) a) fits, rfl⟩⟩

/-- Settles O14: the bound holds for every two rates, and the table is its closed form at the supported ones. -/
theorem roundTripLosesAtMostTheTabledBound : Obligations.RoundTripLosesAtMostTheTabledBound := by
  refine ⟨fun a ha b hb => ⟨fun x y z there back => ?bounded, ?reached⟩, by decide⟩
  case bounded =>
    obtain ⟨hpa, hpb, rfl⟩ := scale64_roundTrip there back
    rw [roundTripBound_eq_roundTripLoss a ha b hb]
    exact ⟨mul_div_mul_div_le x a b, le_mul_div_mul_div_add_roundTripLoss hpa hpb x⟩
  case reached =>
    obtain ⟨x, small, loses⟩ := exists_roundTrip_loses_roundTripBound a ha b hb
    have fits : x * b < 2 ^ 64 := calc
      x * b ≤ 6 * 48000 := Nat.mul_le_mul small.le (le_of_mem_rates b hb)
      _ < 2 ^ 64 := by decide
    obtain ⟨there, back⟩ := scale64_roundTrip_of_lt (pos_of_mem_rates a ha) (pos_of_mem_rates b hb) fits
    exact ⟨x, _, _, there, back, loses⟩

end Sys2Proof.Proofs
end

section
/-! PROOF. The PCM procedures: ENC's window and the frames filled from it, what DEC makes of a decoded frame (41_pcm.md R110,
R112, R113, R115 to R119). -/

namespace Sys2Proof.Proofs

open Sys2Proof.Machine

/-! ### WINDOW -/

section Window
variable {s : State} {p : Nat}

theorem window_of_lt_skipSl (silent : p < s.enc.skipSl.toNat) : window s p = some 0 := if_pos silent

/-- Below SKIPSL a slot past TOTAL is silence, and otherwise padding: zero both ways. -/
theorem window_of_total_le (past : s.enc.total.toNat ≤ p) : window s p = some 0 :=
  ite_eq_left_iff.mpr fun _ => if_neg (Nat.not_lt.mpr past)

theorem window_of_input (afterSilence : s.enc.skipSl.toNat ≤ p) (beforeEnd : p < s.enc.total.toNat) :
    window s p =
      if p - s.enc.skipSl.toNat < s.enc.n.toNat then some (inputAt s (p - s.enc.skipSl.toNat)) else none := by
  rw [window, if_neg (Nat.not_lt.mpr afterSilence), if_pos beforeEnd]

theorem inputAt_of_written {i : Nat} {v : Sample} (written : Memory.read s.pcmIn i = some v)
    (unraced : i ∉ s.enc.raced) : inputAt s i = v := by
  rw [inputAt, if_neg (mt List.contains_iff_mem.mp unraced), sampleAt, written, Option.getD_some]

end Window

/-- Settles O22: TOTAL = N + SKIPSL puts exactly the N input elements between the silence and the padding. -/
theorem windowIsSilenceThenInputThenPadding : Obligations.WindowIsSilenceThenInputThenPadding := by
  intro s p exactTotal
  refine ⟨window_of_lt_skipSl, window_of_total_le, fun afterSilence beforeEnd => ⟨window_isSome s p exactTotal, ?_⟩⟩
  intro v written unraced
  have inside : p - s.enc.skipSl.toNat < s.enc.n.toNat := by omega
  rw [window_of_input afterSilence beforeEnd, if_pos inside, inputAt_of_written written unraced]

/-! ### FRAMEFILL -/

section FrameFill
variable {s : State} {a slots : Nat} {buf : Memory 16}

theorem frameFill_of_lt (long : 1920 < slots) : frameFill a slots s = encRaised 5 0 s := if_pos long

theorem frameFill_of_filled (fits : slots ≤ 1920)
    (loop : fillFrom s a 0 s.enc.frameBuf slots = .filled buf) :
    frameFill a slots s = { s with enc := { s.enc with frameBuf := buf, pend := .encode slots } } := by
  simpa [fits, Nat.not_lt.mpr fits, loop] using frameFill_cases a slots s

theorem frameFill_of_assertFail (fits : slots ≤ 1920)
    (loop : fillFrom s a 0 s.enc.frameBuf slots = .assertFail buf) :
    frameFill a slots s = encRaised 5 0 { s with enc := { s.enc with frameBuf := buf } } := by
  simpa [fits, Nat.not_lt.mpr fits, loop] using frameFill_cases a slots s

end FrameFill

/-- Settles O23: the loop, started at element 0, either runs through all the slots or stops at the first one that WINDOW
gives no value. -/
theorem frameFillCopiesTheWindow : Obligations.FrameFillCopiesTheWindow := by
  intro s a slots
  refine ⟨fun fits inside => ?filled, frameFill_of_lt,
    fun j short fits inside afterSilence beforeEnd beyond => ?stopped⟩
  case filled =>
    obtain ⟨buf, loop, reads⟩ := fillFrom_filled s a slots 0 s.enc.frameBuf (by simpa using inside)
    exact ⟨buf, frameFill_of_filled fits loop, by simpa using reads⟩
  case stopped =>
    have outside : window s (a + j) = none := by
      rw [window_of_input afterSilence beforeEnd, if_neg (Nat.not_lt.mpr beyond)]
    obtain ⟨buf, loop, reads⟩ :=
      fillFrom_assertFail s a slots j 0 s.enc.frameBuf short (by simpa using inside) (by simpa using outside)
    exact ⟨buf, frameFill_of_assertFail fits loop, by simpa using reads⟩

/-! ### TAILTRIM and PRESKIP -/

theorem tailTrim_eq_none_of_lt {n total endPos : Nat} (pastEnd : endPos < total) (short : n < total - endPos) :
    tailTrim n total endPos true = none := by
  rw [tailTrim, if_pos ⟨rfl, pastEnd⟩, if_pos short]

theorem tailTrim_eq_self {n total endPos : Nat} {last : Bool} (whole : last = false ∨ total ≤ endPos) :
    tailTrim n total endPos last = some n := by
  refine if_neg fun ⟨isLast, pastEnd⟩ => ?_
  rcases whole with notLast | within
  · exact absurd isLast (notLast ▸ Bool.false_ne_true)
  · exact absurd pastEnd (Nat.not_lt.mpr within)

theorem tailTrim_eq_sub {n total endPos : Nat} (pastEnd : endPos < total) (enough : total - endPos ≤ n) :
    tailTrim n total endPos true = some (n - (total - endPos)) := by
  rw [tailTrim, if_pos ⟨rfl, pastEnd⟩, if_neg (Nat.not_lt.mpr enough)]

/-- PRESKIP's two cases are one: as much of the frame is skipped as both it and the counter hold. -/
theorem preSkip_eq_min (keep skipRem : Nat) :
    preSkip keep skipRem = (min keep skipRem, skipRem - min keep skipRem) := by
  unfold preSkip
  split_ifs with within
  · rw [Nat.min_eq_left within]
  · rw [Nat.min_eq_right (Nat.le_of_not_le within), Nat.sub_self]

/-! ### FRAMEOUT -/

section FrameOut
variable {s : State} {n endPos : Nat} {last : Bool} {total : BitVec 64}

theorem frameOut_of_tailTrim_none (count : total.toNat = s.dec.totalDec.toNat + n)
    (trim : tailTrim n total.toNat endPos last = none) :
    frameOut n endPos last s = decRaised 1 0 { s with dec := { s.dec with totalDec := total } } := by
  obtain ⟨_, rfl, outcome⟩ := frameOut_cases n endPos last s
  simpa [toU64_eq _ total count, trim] using outcome

theorem frameOut_of_tailTrim_some {keep : Nat} (count : total.toNat = s.dec.totalDec.toNat + n)
    (trim : tailTrim n total.toNat endPos last = some keep) :
    frameOut n endPos last s =
      let off := min keep s.dec.skipRem.toNat
      { s with
        pcmOut := Memory.writeBlock s.pcmOut s.dec.outLen.toNat
          (samplesAt .scratch s.dec.scratch (off * s.dec.ch.toNat) ((keep - off) * s.dec.ch.toNat))
        dec := { s.dec with
          totalDec := total
          skipRem := BitVec.ofNat 16 (s.dec.skipRem.toNat - off)
          outLen := toU64 (s.dec.outLen.toNat + (keep - off) * s.dec.ch.toNat)
          pend := .start } } := by
  obtain ⟨_, rfl, outcome⟩ := frameOut_cases n endPos last s
  simpa [toU64_eq _ total count, trim, preSkip_eq_min, append_eq] using outcome

end FrameOut

/-! ### The appended samples -/

@[simp] theorem length_samplesAt (sp : Space) (m : Memory 16) (a n : Nat) : (samplesAt sp m a n).length = n :=
  Memory.length_readBlock ..

theorem getElem?_samplesAt (sp : Space) (m : Memory 16) {a n i : Nat} (h : i < n) :
    (samplesAt sp m a n)[i]? = some (sampleAt sp m (a + i)) :=
  Memory.getElem?_readBlock _ _ _ _ _ h

theorem ilv_lt_mul {nch k c frames : Nat} (hk : k < frames) (hc : c < nch) : ilv nch k c < frames * nch := calc
  k * nch + c < k * nch + nch := Nat.add_lt_add_left hc _
  _ = (k + 1) * nch := (Nat.succ_mul ..).symm
  _ ≤ frames * nch := Nat.mul_le_mul_right nch hk

theorem mul_add_ilv_sub {nch k off : Nat} (c : Nat) (h : off ≤ k) : off * nch + ilv nch (k - off) c = ilv nch k c := by
  rw [ilv, ← Nat.add_assoc, ← Nat.add_mul, Nat.add_sub_cancel' h, ilv]

/-- A block of whole sample frames `[off, keep)`, moved from one PCM space to another, keeps each sample in its channel. -/
theorem read_writeBlock_samplesAt_ilv (sp : Space) (src dst : Memory 16) (base : Nat) {nch off keep k c : Nat}
    (notSkipped : off ≤ k) (kept : k < keep) (hc : c < nch) :
    Memory.read (Memory.writeBlock dst base (samplesAt sp src (off * nch) ((keep - off) * nch)))
        (base + ilv nch (k - off) c) =
      some (sampleAt sp src (ilv nch k c)) := by
  have inBlock : ilv nch (k - off) c < (keep - off) * nch := ilv_lt_mul (Nat.sub_lt_sub_right notSkipped kept) hc
  rw [Memory.read_writeBlock, length_samplesAt, if_pos ⟨Nat.le_add_right .., Nat.add_lt_add_left inBlock base⟩,
    Nat.add_sub_cancel_left, getElem?_samplesAt sp src inBlock, mul_add_ilv_sub c notSkipped]

/-- Settles O43: TAILTRIM decides between the error and the append; SKIPREM less what is skipped still fits its 16 bits. -/
theorem frameOutCountsTrimsSkipsAppends : Obligations.FrameOutCountsTrimsSkipsAppends := by
  intro s n endPos keep off last total count
  refine ⟨?malformed, ?appended⟩
  case malformed =>
    rintro rfl pastEnd short
    exact frameOut_of_tailTrim_none count (tailTrim_eq_none_of_lt pastEnd short)
  case appended =>
    rintro kept rfl fits
    have trim : tailTrim n total.toNat endPos last = some keep := by
      rcases kept with ⟨whole, rfl⟩ | ⟨rfl, pastEnd, enough, rfl⟩
      · exact tailTrim_eq_self whole
      · exact tailTrim_eq_sub pastEnd enough
    have newLen := toU64_toNat _ fits
    refine ⟨_, _, _, ?rem, newLen, ?other, ?block, frameOut_of_tailTrim_some count trim⟩
    case rem =>
      have remFits : s.dec.skipRem.toNat - min keep s.dec.skipRem.toNat < 2 ^ 16 :=
        Nat.lt_of_le_of_lt (Nat.sub_le ..) s.dec.skipRem.isLt
      rw [BitVec.toNat_ofNat, Nat.mod_eq_of_lt remFits]
    case other =>
      intro a beside
      exact Memory.read_writeBlock_other _ _ _ _ (by rwa [length_samplesAt, ← newLen])
    case block =>
      intro k c notSkipped beforeEnd inChannels
      exact read_writeBlock_samplesAt_ilv _ _ _ _ notSkipped beforeEnd inChannels

end Sys2Proof.Proofs
end

section
/-! PROOF. DEC from its first packet to its counters: the reads of the two header packets, the first one's checks, the
codec opened (42_decode.md R131 to R136; 30_encoding.md R68). -/

namespace Sys2Proof.Proofs

open Sys2Proof.Machine

/-! ### A read at OGGRD, by its answer -/

theorem read_writeBlock_nil (bytes : List Byte) (a : Nat) : Memory.read (Memory.writeBlock [] 0 bytes) a = bytes[a]? := by
  rw [Memory.read_writeBlock, Nat.zero_add, Nat.sub_zero]
  split_ifs with inside
  · rfl
  · exact (List.getElem?_eq_none (by omega)).symm

section ReadNextPacket
variable {s : State} {rest : List ReadAnswer} (next : DecPend) (onExhausted : State → State)

/-- Nothing of an earlier, longer packet stays in PKT_IN, and a length below 2^32 is kept exactly. -/
theorem readNextPacket_of_packet {bytes : List Byte} {gran : BitVec 64} {last : Bool}
    (answer : s.oggRd.script = .packet bytes gran last :: rest) (fits : bytes.length < 4294967296) :
    ∃ (buf : Memory 8) (len : BitVec 32), (∀ a, Memory.read buf a = bytes[a]?) ∧ len.toNat = bytes.length ∧
      readNextPacket next onExhausted s = { s with
        oggRd := ⟨rest, s.oggRd.reads + 1⟩
        dec := { s.dec with pktIn := buf, pktLen := len, pktGran := gran, pktLast := last, pend := next } } :=
  ⟨_, _, read_writeBlock_nil bytes, toU32_toNat _ fits, by
    simpa [answer, -Bool.exists_bool] using readNextPacket_cases next onExhausted s⟩

theorem readNextPacket_of_exhausted (answer : s.oggRd.script = .exhausted :: rest) :
    readNextPacket next onExhausted s = onExhausted { s with oggRd := ⟨rest, s.oggRd.reads + 1⟩ } := by
  simpa [answer] using readNextPacket_cases next onExhausted s

theorem readNextPacket_of_err {reason : BitVec 32} (answer : s.oggRd.script = .err reason :: rest) :
    readNextPacket next onExhausted s = decRaised 4 reason { s with oggRd := ⟨rest, s.oggRd.reads + 1⟩ } := by
  simpa [answer] using readNextPacket_cases next onExhausted s

end ReadNextPacket

/-- D_HEAD and D_TAGS are one read, told apart only by what is made of the packet afterwards. -/
theorem exec_headerRead {i : Instr} {next : DecPend} (h : (i, next) ∈ [(Instr.dHead, DecPend.head), (.dTags, .tags)])
    (s : State) : exec i s = .next (readNextPacket next (raise .dec .malformedAudio 0) s) := by
  simp only [List.mem_cons, Prod.mk.injEq, List.not_mem_nil, or_false] at h
  obtain ⟨rfl, rfl⟩ | ⟨rfl, rfl⟩ := h <;> rfl

/-- Settles O35: each answer's read, with MalformedAudio as what an exhausted container asks for. -/
theorem headerPacketsAreRead : Obligations.HeaderPacketsAreRead := by
  intro s rest i next reads
  rw [exec_headerRead reads]
  refine ⟨fun bytes gran last answer fits => ?packet, fun answer => ?exhausted, fun reason answer => ?err⟩
  case packet =>
    obtain ⟨buf, len, holds, length, read⟩ := readNextPacket_of_packet next _ answer fits
    exact ⟨buf, len, holds, length, congrArg _ read⟩
  case exhausted => rw [readNextPacket_of_exhausted next _ answer, raise_dec, ErrKind.code]
  case err => rw [readNextPacket_of_err next _ answer]

/-! ### The identification header -/

/-- The three checks of 42_decode.md R132 that the decoder makes; the fourth, the channel byte's, is OPUSHEAD's own. -/
def ReadsAsIdHeader (b : List Byte) : Prop :=
  19 ≤ b.length ∧ b.take 8 = headMagic ∧ b.getD 8 0 = headVersion

theorem idHeaderAccepted_iff (b : List Byte) :
    IdHeaderAccepted b ↔ ReadsAsIdHeader b ∧ (b.getD 9 0 = 1 ∨ b.getD 9 0 = 2) := by
  simp only [IdHeaderAccepted, ReadsAsIdHeader, headMagic, headVersion, and_assoc]

/-- The fields stand at their offsets of 30_encoding.md R66. -/
theorem decodeHeadPacket_of_reads {b : List Byte} (reads : ReadsAsIdHeader b) :
    decodeHeadPacket b = .opusHead (b.getD 9 0) (le16 (b.getD 10 0) (b.getD 11 0))
      (le32 (b.getD 12 0) (b.getD 13 0) (b.getD 14 0) (b.getD 15 0)) (le16 (b.getD 16 0) (b.getD 17 0))
      (b.getD 18 0) (b.drop 19) := by
  obtain ⟨long, magic, version⟩ := reads
  obtain ⟨r, rfl⟩ : ∃ r, b = headMagic ++ r := ⟨b.drop 8, by rw [← magic, List.take_append_drop]⟩
  have enough : 11 ≤ r.length := by simpa [headMagic] using long
  match r, enough with
  | _ :: _ :: _ :: _ :: _ :: _ :: _ :: _ :: _ :: _ :: _ :: _, _ => exact if_pos ⟨rfl, version⟩

/-- A packet too short for the decoder's pattern fails the length check, any other one of the two tested ones. -/
theorem decodeHeadPacket_of_not_reads {b : List Byte} (unread : ¬ ReadsAsIdHeader b) :
    decodeHeadPacket b = .malformedAudio .dec := by
  unfold decodeHeadPacket
  split
  · exact if_neg fun ⟨magic, version⟩ => unread ⟨Nat.le_add_left 19 _, magic, version⟩
  · rfl

theorem le16_eq_ofNat (b0 b1 : Byte) : le16 b0 b1 = BitVec.ofNat 16 (b0.toNat + 256 * b1.toNat) := by
  rw [← le16_toNat, BitVec.ofNat_toNat, BitVec.setWidth_eq]

section OpusHead
variable {ch family : BitVec 8} {preSkip gain : BitVec 16} {rate : BitVec 32} {extra : List Byte} {s : State}

theorem exec_opusHead_of_channels (channels : ch = 1 ∨ ch = 2) :
    exec (.opusHead ch preSkip rate gain family extra) s = .next { s with
      dec := { s.dec with ch := ch, preSkip48 := preSkip, gain := gain, phase := 2, pend := .start } } :=
  congrArg Host.Outcome.next (if_pos channels)

theorem exec_opusHead_of_not_channels (noChannels : ¬ (ch = 1 ∨ ch = 2)) :
    exec (.opusHead ch preSkip rate gain family extra) s = .next (decRaised 1 0 s) :=
  congrArg Host.Outcome.next (if_neg noChannels)

end OpusHead

/-- Settles O36: the decoder makes three of the four checks, and OPUSHEAD the last one on what it decodes to. -/
theorem firstPacketIsCheckedAndTaken : Obligations.FirstPacketIsCheckedAndTaken := by
  intro s b
  refine ⟨decodeHeadPacket b, rfl, fun accepted => ?taken, fun rejected => ?malformed⟩
  case taken =>
    obtain ⟨reads, channels⟩ := (idHeaderAccepted_iff b).mp accepted
    rw [decodeHeadPacket_of_reads reads, exec_opusHead_of_channels channels, le16_eq_ofNat, le16_eq_ofNat]
  case malformed =>
    by_cases reads : ReadsAsIdHeader b
    · have noChannels : ¬ (b.getD 9 0 = 1 ∨ b.getD 9 0 = 2) :=
        fun channels => rejected ((idHeaderAccepted_iff b).mpr ⟨reads, channels⟩)
      rw [decodeHeadPacket_of_reads reads, exec_opusHead_of_not_channels noChannels]
    · rw [decodeHeadPacket_of_not_reads reads]
      rfl

/-! ### D_OPEN -/

theorem exec_dOpen_of_start {s : State} (start : s.dec.pend = .start) : exec .dOpen s = .next (constructDec s) := by
  simp only [exec, execDOpen, start]

theorem exec_dOpen_of_gain {s : State} (gain : s.dec.pend = .gain) : exec .dOpen s = .next (setGain s) := by
  simp only [exec, execDOpen, gain]

section ConstructDec
variable {s : State}

theorem constructDec_of_unsupported (unsupported : s.dec.tRate.toNat ∉ Config.rates) :
    constructDec s = decRaised 2 0 s :=
  if_neg (mt (rateOk_iff _).mp unsupported)

variable {rest : List (Answer Unit)} (supported : s.dec.tRate.toNat ∈ Config.rates)
include supported

theorem constructDec_of_ok (answer : s.opusDec.script.construct = .ok () :: rest) :
    constructDec s = { s with
      dec := { s.dec with pend := .gain }
      opusDec := { inst := some ⟨s.dec.tRate, s.dec.ch, none⟩
                   script := { s.opusDec.script with construct := rest }
                   sent := s.opusDec.sent ++ [.construct s.dec.tRate s.dec.ch] } } := by
  rw [constructDec, if_pos ((rateOk_iff _).mpr supported), answer]
  rfl

theorem constructDec_of_err {reason : BitVec 32} (answer : s.opusDec.script.construct = .err reason :: rest) :
    constructDec s = decRaised 3 reason { s with
      opusDec := { s.opusDec with
                   script := { s.opusDec.script with construct := rest }
                   sent := s.opusDec.sent ++ [.construct s.dec.tRate s.dec.ch] } } := by
  rw [constructDec, if_pos ((rateOk_iff _).mpr supported), answer]
  rfl

end ConstructDec

theorem mul_div_refRate_le {rate : Nat} (supported : rate ∈ Config.rates) (v : Nat) : v * rate / 48000 ≤ v :=
  Nat.div_le_of_le_mul (Nat.mul_comm v 48000 ▸ Nat.mul_le_mul_left v (le_of_mem_rates rate supported))

/-- R135 never leaves SCALE16's domain: no supported rate is above the reference rate, so the scaled pre-skip is no longer
than the header's 16 bits. -/
theorem openCounters_of_supported {s : State} (supported : s.dec.tRate.toNat ∈ Config.rates) :
    ∃ rem : BitVec 16, rem.toNat = s.dec.preSkip48.toNat * s.dec.tRate.toNat / 48000 ∧
      openCounters s = { s with
        dec := { s.dec with skipRem := rem, totalDec := 0, phase := 3, pend := .start } } := by
  have fits : s.dec.preSkip48.toNat * s.dec.tRate.toNat / 48000 < 2 ^ 16 :=
    Nat.lt_of_le_of_lt (mul_div_refRate_le supported _) s.dec.preSkip48.isLt
  have scaled : scale16 s.dec.preSkip48.toNat Config.refRate s.dec.tRate.toNat =
      some (s.dec.preSkip48.toNat * s.dec.tRate.toNat / 48000) :=
    (scale16_eq_some ..).mpr ⟨by decide, Nat.le_of_lt_succ fits, rfl⟩
  refine ⟨BitVec.ofNat 16 _, (BitVec.toNat_ofNat ..).trans (Nat.mod_eq_of_lt fits), ?_⟩
  rw [openCounters, scaled]
  rfl

/-- What an `Ok` of set_gain leaves, before the counters are set. -/
def gainSet (inst : DecInst) (rest : List (Answer Unit)) (s : State) : State :=
  { s with
    opusDec := { inst := some { inst with gain := some s.dec.gain }
                 script := { s.opusDec.script with gain := rest }
                 sent := s.opusDec.sent ++ [.setGain s.dec.gain] } }

section SetGain
variable {s : State} {rest : List (Answer Unit)}

theorem setGain_of_ok {inst : DecInst} (constructed : s.opusDec.inst = some inst)
    (answer : s.opusDec.script.gain = .ok () :: rest) : setGain s = openCounters (gainSet inst rest s) := by
  rw [setGain, answer]
  simp only [opusDecDid, State.withOpusDec, constructed]
  rfl

theorem setGain_of_err {reason : BitVec 32} (answer : s.opusDec.script.gain = .err reason :: rest) :
    setGain s = decRaised 3 reason { s with
      opusDec := { s.opusDec with
                   script := { s.opusDec.script with gain := rest }
                   sent := s.opusDec.sent ++ [.setGain s.dec.gain] } } := by
  rw [setGain, answer]
  rfl

end SetGain

/-- Settles O39: the construct step and the set_gain step, each by its answer; after an `Ok` of set_gain the counters are
those of a supported rate. -/
theorem decoderOpensAfterValidation : Obligations.DecoderOpensAfterValidation := by
  intro s
  refine ⟨fun start unsupported => ?unsupported, fun start supported => ⟨fun rest answer => ?constructed,
    fun reason rest answer => ?constructErr⟩, fun inst rest gain supported constructed answer => ?opened,
    fun reason rest gain answer => ?gainErr⟩
  case unsupported => rw [exec_dOpen_of_start start, constructDec_of_unsupported unsupported]
  case constructed => rw [exec_dOpen_of_start start, constructDec_of_ok supported answer]
  case constructErr => rw [exec_dOpen_of_start start, constructDec_of_err supported answer]
  case opened =>
    obtain ⟨rem, scaled, counters⟩ := openCounters_of_supported (s := gainSet inst rest s) supported
    rw [exec_dOpen_of_gain gain, setGain_of_ok constructed answer, counters]
    exact ⟨rem, scaled, rfl⟩
  case gainErr => rw [exec_dOpen_of_gain gain, setGain_of_err answer]

end Sys2Proof.Proofs
end

section
/-! PROOF. ENC before its audio: validation, the codec opened, the lookahead and the timeline registers, the serial, the two
header packets composed and written (43_encode.md R161 to R169; 30_encoding.md R67, R70). -/

namespace Sys2Proof.Proofs

open Sys2Proof.Machine

/-! ### E_VALIDATE -/

theorem exec_eValidate_of_supported {s : State} (supported : s.enc.rate.toNat ∈ Config.rates) :
    exec .eValidate s = .next { s with
      enc := { s.enc with ch := if s.enc.cmdCh = 0 then 1 else s.enc.cmdCh, phase := 2, pend := .start } } :=
  congrArg Host.Outcome.next (if_pos ((rateOk_iff _).mpr supported))

theorem exec_eValidate_of_unsupported {s : State} (unsupported : s.enc.rate.toNat ∉ Config.rates) :
    exec .eValidate s = .next (encRaised 2 0 s) :=
  congrArg Host.Outcome.next (if_neg (mt (rateOk_iff _).mp unsupported))

/-- Settles O15: VALRATE decides between the two outcomes. -/
theorem validateChecksTheRateAndSetsTheChannels : Obligations.ValidateChecksTheRateAndSetsTheChannels :=
  fun _ => ⟨exec_eValidate_of_supported, exec_eValidate_of_unsupported⟩

/-! ### E_OPEN -/

section EncoderOpens
variable {s : State} {rest : List (Answer Unit)} {reason : BitVec 32}

theorem exec_eOpen_of_start (start : s.enc.pend = .start) : exec .eOpen s = .next (constructEnc s) := by
  simp only [exec, execEOpen, start]

theorem exec_eOpen_of_bitrate (bitrate : s.enc.pend = .bitrate) : exec .eOpen s = .next (setBitrate s) := by
  simp only [exec, execEOpen, bitrate]

theorem constructEnc_of_ok (answer : s.opusEnc.script.construct = .ok () :: rest) :
    constructEnc s = { s with
      enc := { s.enc with pend := .bitrate }
      opusEnc := { inst := some ⟨s.enc.rate, s.enc.ch, none⟩
                   script := { s.opusEnc.script with construct := rest }
                   sent := s.opusEnc.sent ++ [.construct s.enc.rate s.enc.ch .audio] } } := by
  rw [constructEnc, answer]
  rfl

theorem constructEnc_of_err (answer : s.opusEnc.script.construct = .err reason :: rest) :
    constructEnc s = encRaised 3 reason { s with
      opusEnc := { s.opusEnc with
                   script := { s.opusEnc.script with construct := rest }
                   sent := s.opusEnc.sent ++ [.construct s.enc.rate s.enc.ch .audio] } } := by
  rw [constructEnc, answer]
  rfl

theorem setBitrate_of_ok {inst : EncInst} (constructed : s.opusEnc.inst = some inst)
    (answer : s.opusEnc.script.bitrate = .ok () :: rest) :
    setBitrate s = { s with
      enc := { s.enc with phase := 3, pend := .start }
      opusEnc := { inst := some { inst with bitrate := some 24000 }
                   script := { s.opusEnc.script with bitrate := rest }
                   sent := s.opusEnc.sent ++ [.setBitrate 24000] } } := by
  rw [setBitrate, answer]
  simp only [opusEncDid, State.withOpusEnc, constructed]
  rfl

theorem setBitrate_of_err (answer : s.opusEnc.script.bitrate = .err reason :: rest) :
    setBitrate s = encRaised 3 reason { s with
      opusEnc := { s.opusEnc with
                   script := { s.opusEnc.script with bitrate := rest }
                   sent := s.opusEnc.sent ++ [.setBitrate 24000] } } := by
  rw [setBitrate, answer]
  rfl

end EncoderOpens

/-- Settles O16: the pending action picks the transaction, and each transaction goes by its answer. -/
theorem openConstructsThenSetsTheBitrate : Obligations.OpenConstructsThenSetsTheBitrate := by
  intro s
  refine ⟨fun rest start answer => ?constructed, fun reason rest start answer => ?constructErr,
    fun inst rest bitrate constructed answer => ?opened, fun reason rest bitrate answer => ?bitrateErr⟩
  case constructed => rw [exec_eOpen_of_start start, constructEnc_of_ok answer]
  case constructErr => rw [exec_eOpen_of_start start, constructEnc_of_err answer]
  case opened => rw [exec_eOpen_of_bitrate bitrate, setBitrate_of_ok constructed answer]
  case bitrateErr => rw [exec_eOpen_of_bitrate bitrate, setBitrate_of_err answer]

/-! ### E_LOOK -/

/-- The unit factor KS by the two values of UNIT_MODE (43_encode.md R162). -/
theorem unitKs_eq {mode : UnitMode} {ch ks : Nat}
    (unit : mode = .literal ∧ ks = 1 ∨ mode = .perChannel ∧ ks = ch) : unitKs mode ch = ks := by
  obtain ⟨rfl, rfl⟩ | ⟨rfl, rfl⟩ := unit <;> rfl

section LookRegs
variable {n : Nat} {s : State}

theorem lookRegs_of_le (nonzero : s.enc.rate.toNat ≠ 0) (fits : n * 48000 / s.enc.rate.toNat ≤ 65535) :
    lookRegs n s = { s with
      enc := { s.enc with
        skip := BitVec.ofNat 16 n
        skipSl := toU64 (n * unitKs s.params.unitMode s.enc.ch.toNat)
        total := toU64 (s.enc.n.toNat + n * unitKs s.params.unitMode s.enc.ch.toNat)
        skip48 := BitVec.ofNat 16 (n * 48000 / s.enc.rate.toNat)
        phase := 4
        pend := .start } } := by
  have scaled : scale16 n s.enc.rate.toNat Config.refRate = some (n * 48000 / s.enc.rate.toNat) :=
    (scale16_eq_some ..).mpr ⟨nonzero, fits, rfl⟩
  rw [lookRegs, scaled]
  rfl

/-- The timeline registers are written before the scale of SKIP48 fails. -/
theorem lookRegs_of_lt (beyond : 65535 < n * 48000 / s.enc.rate.toNat) :
    lookRegs n s = encRaised 5 0 { s with
      enc := { s.enc with
        skip := BitVec.ofNat 16 n
        skipSl := toU64 (n * unitKs s.params.unitMode s.enc.ch.toNat)
        total := toU64 (s.enc.n.toNat + n * unitKs s.params.unitMode s.enc.ch.toNat) } } := by
  have unscaled : scale16 n s.enc.rate.toNat Config.refRate = none := (scale16_eq_none ..).mpr (.inr beyond)
  rw [lookRegs, unscaled]
  rfl

end LookRegs

/-- ENC after OPUSENC has answered the lookahead transaction, before anything is made of the answer. -/
def lookaheadAsked (rest : List (Answer Nat)) (s : State) : State :=
  { s with opusEnc := { s.opusEnc with
    script := { s.opusEnc.script with lookahead := rest }, sent := s.opusEnc.sent ++ [.lookahead] } }

section Lookahead
variable {s : State} {rest : List (Answer Nat)} {n : Nat}

theorem exec_eLook_of_le (answer : s.opusEnc.script.lookahead = .ok n :: rest) (fits : n ≤ 65535) :
    exec .eLook s = .next (lookRegs n (lookaheadAsked rest s)) := by
  simp only [exec, execELook, answer, if_neg (Nat.not_lt.mpr fits)]
  rfl

theorem exec_eLook_of_lt (answer : s.opusEnc.script.lookahead = .ok n :: rest) (long : 65535 < n) :
    exec .eLook s = .next (encRaised 5 0 (lookaheadAsked rest s)) := by
  simp only [exec, execELook, answer, if_pos long]
  rfl

theorem exec_eLook_of_err {reason : BitVec 32} (answer : s.opusEnc.script.lookahead = .err reason :: rest) :
    exec .eLook s = .next (encRaised 3 reason (lookaheadAsked rest s)) := by
  simp only [exec, execELook, answer]
  rfl

end Lookahead

/-- Settles O17: within the stated bounds SKIP, SKIPSL, TOTAL and SKIP48 hold the exact numbers, and the scale of SKIP48
decides between E_SERIAL and the assertion. -/
theorem lookaheadSetsTheTimelineRegisters : Obligations.LookaheadSetsTheTimelineRegisters := by
  intro s ks rest unit asked
  refine ⟨fun n answer fits nonzero sumFits => ?inRange, fun n => exec_eLook_of_lt, fun reason => exec_eLook_of_err⟩
  case inRange =>
    have slots : unitKs s.params.unitMode s.enc.ch.toNat = ks := unitKs_eq unit
    have looked := exec_eLook_of_le answer fits
    refine ⟨BitVec.ofNat 16 n, BitVec.ofNat 16 (n * 48000 / s.enc.rate.toNat), toU64 (n * ks),
      toU64 (s.enc.n.toNat + n * ks), ?skip, toU64_toNat _ (Nat.lt_of_le_of_lt (Nat.le_add_left ..) sumFits),
      toU64_toNat _ sumFits, fun inDomain => ⟨?skip48, ?serial⟩, fun beyond => ?assert⟩
    case skip => exact (BitVec.toNat_ofNat ..).trans (Nat.mod_eq_of_lt (Nat.lt_succ_of_le fits))
    case skip48 => exact (BitVec.toNat_ofNat ..).trans (Nat.mod_eq_of_lt (Nat.lt_succ_of_le inDomain))
    case serial =>
      rw [looked, lookRegs_of_le (s := lookaheadAsked rest s) nonzero inDomain, ← slots]
      rfl
    case assert =>
      rw [looked, lookRegs_of_lt (s := lookaheadAsked rest s) beyond, ← slots]
      rfl

/-! ### E_SERIAL -/

theorem sampleRand_of_supplied {s : State} {r : BitVec 32} {rest : List (BitVec 32)} (supplied : s.randIn = r :: rest) :
    sampleRand s = (r, { s with randIn := rest }) := by
  rw [sampleRand, supplied]
  rfl

/-- What E_SERIAL makes of a sample, wherever it comes from. -/
theorem exec_eSerial_of_sampleRand {s t : State} {r : BitVec 32} (sampled : sampleRand s = (r, t)) :
    exec .eSerial s = .next { t with
      enc := { t.enc with serial := r ^^^ s.params.instanceId, phase := 5, pend := .start } } := by
  simp only [exec, execESerial, sampled]
  rfl

/-- Settles O18: the supplied sample is the one that E_SERIAL takes. -/
theorem serialIsRandomXorInstance : Obligations.SerialIsRandomXorInstance :=
  fun _ _ _ supplied => exec_eSerial_of_sampleRand (sampleRand_of_supplied supplied)

/-! ### The bytes of the two header packets -/

theorem extractLsb'_eq_ofNat {w : Nat} (v : BitVec w) (k : Nat) :
    v.extractLsb' k 8 = BitVec.ofNat 8 (v.toNat / 2 ^ k) :=
  congrArg (BitVec.ofNat 8) (Nat.shiftRight_eq_div_pow ..)

theorem putLe16_eq (v : BitVec 16) : putLe16 v = [BitVec.ofNat 8 v.toNat, BitVec.ofNat 8 (v.toNat / 256)] := by
  simp only [putLe16, extractLsb'_eq_ofNat, pow_zero, Nat.div_one, Nat.reducePow]

theorem putLe32_eq (v : BitVec 32) :
    putLe32 v = [BitVec.ofNat 8 v.toNat, BitVec.ofNat 8 (v.toNat / 256), BitVec.ofNat 8 (v.toNat / 65536),
      BitVec.ofNat 8 (v.toNat / 16777216)] := by
  simp only [putLe32, extractLsb'_eq_ofNat, pow_zero, Nat.div_one, Nat.reducePow]

theorem idHeader_eq_idHeaderSpec (s : State) :
    idHeader s = idHeaderSpec s.enc.ch s.enc.skip48.toNat s.enc.rate.toNat := by
  rw [idHeader, opusHeadBytes, putLe16_eq s.enc.skip48, putLe32_eq]
  rfl

theorem commentHeader_eq_commentHeaderSpec {vendor : List Byte} (fits : vendor.length < 2 ^ 32) :
    commentHeader vendor = commentHeaderSpec vendor := by
  rw [commentHeader, opusTagsBytes, putLe32_eq, BitVec.toNat_ofNat, Nat.mod_eq_of_lt fits, ← List.append_assoc]
  rfl

theorem length_idHeaderSpec (ch : BitVec 8) (skip48 rate : Nat) : (idHeaderSpec ch skip48 rate).length = 19 := rfl

theorem length_commentHeaderSpec (vendor : List Byte) : (commentHeaderSpec vendor).length = 16 + vendor.length := by
  simp only [commentHeaderSpec, List.length_append, List.length_cons, List.length_nil]
  omega

/-! ### A header packet, composed and written -/

theorem overwrites_writeBlock {w : Nat} (m : Memory w) (block : List (BitVec w)) :
    Overwrites (Memory.writeBlock m 0 block) block m := by
  intro a
  rw [Memory.read_writeBlock, Nat.zero_add, Nat.sub_zero]
  simp only [Nat.zero_le, true_and]

theorem emit_of_ok {marker : BitVec 2} {s : State} {rest : List (Answer Unit)} (answer : s.oggWr.script = .ok () :: rest) :
    emit marker s = afterWrite { s with
      enc := { s.enc with eos := if marker = Marker.endStream then true else s.enc.eos }
      oggWr := ⟨rest, s.oggWr.sent ++ [postedPacket marker s], s.oggWr.accepted ++ [postedPacket marker s]⟩ } := by
  simpa [answer] using emit_cases marker s

/-- ENC with a header composed at the start of ENC.PKTBUF and so many bytes of it posted for OGGWR, END_PAGE, granule 0. -/
def headerPosted (hdr : List Byte) (len : Nat) (s : State) : State :=
  { s with enc := { s.enc with pktBuf := Memory.writeBlock s.enc.pktBuf 0 hdr, pend := .write len 1 0 } }

theorem exec_eHead (s : State) :
    exec .eHead s = .next (headerPosted (idHeaderSpec s.enc.ch s.enc.skip48.toNat s.enc.rate.toNat) 19 s) := by
  rw [← idHeader_eq_idHeaderSpec]
  exact execEHead_eq s

theorem exec_eTags_of_le {s : State} (short : s.params.vendor.length ≤ 3984) :
    exec .eTags s =
      .next (headerPosted (commentHeaderSpec s.params.vendor) (16 + s.params.vendor.length) s) := by
  rw [← commentHeader_eq_commentHeaderSpec (Nat.lt_of_le_of_lt short (by decide))]
  exact (execETags_eq s).trans (if_neg (Nat.not_lt.mpr short))

section HeaderWritten
variable {hdr : List Byte} {len : Nat} (length : hdr.length = len) {s : State}
include length

/-- Reading the posted descriptor's bytes back gives the header, whatever stood in ENC.PKTBUF before. -/
theorem postedPacket_headerPosted (marker : BitVec 2) :
    postedPacket marker (headerPosted hdr len s) = ⟨hdr, s.enc.serial, marker, 0⟩ := by
  subst length
  exact congrArg (Packet.mk · s.enc.serial marker 0) (Memory.readBlock_writeBlock ..)

theorem exec_endPage_headerPosted {rest : List (Answer Unit)} (answer : s.oggWr.script = .ok () :: rest) :
    exec .endPage (headerPosted hdr len s) = .next (afterWrite { headerPosted hdr len s with
      oggWr := ⟨rest, s.oggWr.sent ++ [⟨hdr, s.enc.serial, 1, 0⟩], s.oggWr.accepted ++ [⟨hdr, s.enc.serial, 1, 0⟩]⟩ }) := by
  have emitted := emit_of_ok (marker := Marker.endPage) (s := headerPosted hdr len s) answer
  rw [postedPacket_headerPosted length] at emitted
  exact congrArg Host.Outcome.next emitted

end HeaderWritten

theorem afterWrite_of_eHead {s : State} (head : s.enc.phase = 5) :
    afterWrite s = { s with enc := { s.enc with phase := 6, pend := .start } } := by
  rw [afterWrite, head]
  rfl

theorem afterWrite_of_eTags {s : State} (tags : s.enc.phase = 6) :
    afterWrite s = { s with enc := { s.enc with phase := 7, pend := .start } } := by
  rw [afterWrite, tags]
  rfl

/-- Settles O20: of the header it matters only that E_HEAD posts it whole; END_PAGE hands over what is posted, and E_HEAD's
packet leads to E_TAGS. -/
theorem idHeaderIsComposedAndWritten : Obligations.IdHeaderIsComposedAndWritten := by
  intro s rest head answer hdr
  have composed : exec .eHead s = .next (headerPosted hdr 19 s) := exec_eHead s
  have length : hdr.length = 19 := length_idHeaderSpec ..
  clear_value hdr
  refine ⟨_, overwrites_writeBlock _ hdr, composed, rfl, ?written⟩
  case written => exact (exec_endPage_headerPosted length answer).trans (congrArg _ (afterWrite_of_eHead head))

/-- Settles O21: as for E_HEAD, with the vendor string's bound as what makes E_TAGS post the header whole; the packet leads
to E_MAIN. -/
theorem commentHeaderIsComposedAndWritten : Obligations.CommentHeaderIsComposedAndWritten := by
  intro s rest short tags answer hdr
  have composed : exec .eTags s = .next (headerPosted hdr (16 + s.params.vendor.length) s) := exec_eTags_of_le short
  have length : hdr.length = 16 + s.params.vendor.length := length_commentHeaderSpec _
  clear_value hdr
  refine ⟨_, overwrites_writeBlock _ hdr, composed, rfl, ?written⟩
  case written => exact (exec_endPage_headerPosted length answer).trans (congrArg _ (afterWrite_of_eTags tags))

end Sys2Proof.Proofs
end

section
/-! PROOF. A port that has not answered keeps its pipeline waiting (70_reset_and_hazards.md R239): what each transaction does
when its port's script is empty, then the phases that ask it. -/

namespace Sys2Proof.Proofs

open Sys2Proof.Machine

section Waiting
variable {s : State}

/-! ### Each transaction without an answer -/

theorem constructEnc_of_unanswered (unanswered : s.opusEnc.script.construct = []) : constructEnc s = s := by
  rw [constructEnc, unanswered]

theorem setBitrate_of_unanswered (unanswered : s.opusEnc.script.bitrate = []) : setBitrate s = s := by
  rw [setBitrate, unanswered]

theorem encodeFrame_of_unanswered (unanswered : s.opusEnc.script.encode = []) (post : Nat → Nat → State → State)
    (slots : Nat) : encodeFrame post slots s = s := by
  simpa [unanswered] using encodeFrame_cases post slots s

theorem encodeRange_of_unanswered (unanswered : s.opusEnc.script.range = []) (post : Nat → Nat → State → State)
    (len slots : Nat) : encodeRange post len slots s = s := by
  simpa [unanswered] using encodeRange_cases post len slots s

theorem emit_of_unanswered (unanswered : s.oggWr.script = []) (marker : BitVec 2) : emit marker s = s := by
  simpa [unanswered] using emit_cases marker s

theorem readNextPacket_of_unanswered (unanswered : s.oggRd.script = []) (next : DecPend) (onExhausted : State → State) :
    readNextPacket next onExhausted s = s := by
  simpa [unanswered] using readNextPacket_cases next onExhausted s

theorem constructDec_of_unanswered (supported : s.dec.tRate.toNat ∈ Config.rates)
    (unanswered : s.opusDec.script.construct = []) : constructDec s = s := by
  rw [constructDec, if_pos ((rateOk_iff _).mpr supported), unanswered]

theorem setGain_of_unanswered (unanswered : s.opusDec.script.gain = []) : setGain s = s := by
  rw [setGain, unanswered]

theorem decodePacket_of_unanswered (unanswered : s.opusDec.script.decode = []) : decodePacket s = s := by
  rw [decodePacket, unanswered]

theorem decodeRange_of_unanswered (unanswered : s.opusDec.script.range = []) : decodeRange s = s := by
  rw [decodeRange, unanswered]

/-! ### The transaction that a phase asks for -/

theorem exec_eLook_of_unanswered (unanswered : s.opusEnc.script.lookahead = []) : exec .eLook s = .next s := by
  simp only [exec, execELook, unanswered]

/-- The three audio phases share ENCFRAME's two transactions and differ in what they do with the compressed frame. -/
theorem exec_audioPhase {i : Instr} (audio : i ∈ [Instr.eMain, .eTail, .eFinal]) (s : State) :
    ∃ post, (∀ slots, s.enc.pend = .encode slots → exec i s = .next (encodeFrame post slots s)) ∧
      (∀ len slots, s.enc.pend = .range len slots → exec i s = .next (encodeRange post len slots s)) := by
  simp only [List.mem_cons, List.not_mem_nil, or_false] at audio
  obtain rfl | rfl | rfl := audio
  · exact ⟨mainPost, fun _ encode => by simp only [exec, execEMain, encode],
      fun _ _ range => by simp only [exec, execEMain, range]⟩
  · exact ⟨tailPost, fun _ encode => by simp only [exec, execETail, encode],
      fun _ _ range => by simp only [exec, execETail, range]⟩
  · exact ⟨finalPost, fun _ encode => by simp only [exec, execEFinal, encode],
      fun _ _ range => by simp only [exec, execEFinal, range]⟩

theorem exec_endMark {i : Instr} (endMark : i ∈ [Instr.normal, .endPage, .endStream]) (s : State) :
    ∃ marker, exec i s = .next (emit marker s) := by
  simp only [List.mem_cons, List.not_mem_nil, or_false] at endMark
  obtain rfl | rfl | rfl := endMark
  · exact ⟨Marker.normal, rfl⟩
  · exact ⟨Marker.endPage, rfl⟩
  · exact ⟨Marker.endStream, rfl⟩

theorem exec_headerPhase {i : Instr} (header : i ∈ [Instr.dHead, .dTags]) (s : State) :
    ∃ next, exec i s = .next (readNextPacket next (raise .dec .malformedAudio 0) s) := by
  simp only [List.mem_cons, List.not_mem_nil, or_false] at header
  obtain rfl | rfl := header
  · exact ⟨.head, exec_headerRead (by simp) s⟩
  · exact ⟨.tags, exec_headerRead (by simp) s⟩

theorem exec_dFrame_of_start (start : s.dec.pend = .start) :
    exec .dFrame s = .next (readNextPacket .packet completeDec s) := by
  simp only [exec, execDFrame, start]

theorem exec_dFrame_of_packet (packet : s.dec.pend = .packet) : exec .dFrame s = .next (decodePacket s) := by
  simp only [exec, execDFrame, packet]

theorem exec_dFrame_of_range (range : s.dec.pend = .range) : exec .dFrame s = .next (decodeRange s) := by
  simp only [exec, execDFrame, range]

end Waiting

/-- Settles O48: the phase and its pending action pick the transaction, and that transaction waits. -/
theorem unansweredPortsKeepThePipelineWaiting : Obligations.UnansweredPortsKeepThePipelineWaiting := by
  intro s
  refine ⟨fun start unanswered => ?construct, fun bitrate unanswered => ?bitrate, exec_eLook_of_unanswered,
    fun i slots audio encode unanswered => ?encode, fun i len slots audio range unanswered => ?encodeRange,
    fun i endMark unanswered => ?write, fun i header unanswered => ?headerRead, fun start unanswered => ?frameRead,
    fun start supported unanswered => ?decConstruct, fun gain unanswered => ?gain,
    fun packet unanswered => ?decode, fun range unanswered => ?decodeRange⟩
  case construct => rw [exec_eOpen_of_start start, constructEnc_of_unanswered unanswered]
  case bitrate => rw [exec_eOpen_of_bitrate bitrate, setBitrate_of_unanswered unanswered]
  case encode =>
    obtain ⟨post, asks, _⟩ := exec_audioPhase audio s
    rw [asks slots encode, encodeFrame_of_unanswered unanswered]
  case encodeRange =>
    obtain ⟨post, _, asks⟩ := exec_audioPhase audio s
    rw [asks len slots range, encodeRange_of_unanswered unanswered]
  case write =>
    obtain ⟨marker, asks⟩ := exec_endMark endMark s
    rw [asks, emit_of_unanswered unanswered]
  case headerRead =>
    obtain ⟨next, asks⟩ := exec_headerPhase header s
    rw [asks, readNextPacket_of_unanswered unanswered]
  case frameRead => rw [exec_dFrame_of_start start, readNextPacket_of_unanswered unanswered]
  case decConstruct => rw [exec_dOpen_of_start start, constructDec_of_unanswered supported unanswered]
  case gain => rw [exec_dOpen_of_gain gain, setGain_of_unanswered unanswered]
  case decode => rw [exec_dFrame_of_packet packet, decodePacket_of_unanswered unanswered]
  case decodeRange => rw [exec_dFrame_of_range range, decodeRange_of_unanswered unanswered]

end Sys2Proof.Proofs
end

section
/-! PROOF. The encoded forms (30_encoding.md sections 1 to 6; 60_exceptions.md R200): each decoder is the inverse of its encoder,
and it refuses exactly the reserved codes. -/

namespace Sys2Proof.Proofs

open Sys2Proof.Machine

/-! ### Command words -/

theorem extractLsb'_eq_iff {n w : Nat} {v : BitVec n} {k : Nat} {c : BitVec w} :
    v.extractLsb' k w = c ↔ v.toNat / 2 ^ k % 2 ^ w = c.toNat := by
  rw [← BitVec.toNat_inj, BitVec.extractLsb'_toNat, Nat.shiftRight_eq_div_pow]

/-- The layout of R60, field by field, says everything about a word. -/
theorem eq_cmdWord_iff {w : BitVec 64} {op ch : BitVec 8} {rate : BitVec 32} :
    w = 0#16 ++ rate ++ ch ++ op ↔
      w.extractLsb' 0 8 = op ∧ w.extractLsb' 48 16 = 0 ∧ w.extractLsb' 8 8 = ch ∧ w.extractLsb' 16 32 = rate := by
  constructor
  · rintro rfl
    exact ⟨cmdWord_op .., cmdWord_rsv .., cmdWord_ch .., cmdWord_rate ..⟩
  · rintro ⟨hop, hrsv, hch, hrate⟩
    rw [extractLsb'_eq_iff] at hop hrsv hch hrate
    replace hrsv : w.toNat / 2 ^ 48 % 2 ^ 16 = 0 := hrsv
    apply BitVec.eq_of_toNat_eq
    have bound := w.isLt
    rw [cmdWord_toNat]
    omega

theorem decodeEncCmd_eq_encode_iff {w : BitVec 64} {ch : BitVec 8} {rate : BitVec 32} :
    decodeEncCmd w = .encode ch rate ↔ w = 0#16 ++ rate ++ ch ++ 0x01#8 := by
  rw [eq_cmdWord_iff, decodeEncCmd, ← and_assoc]
  split_ifs with legal
  · rw [Instr.encode.injEq]
    exact (and_iff_right legal).symm
  · exact iff_of_false nofun fun ⟨fixed, _⟩ => legal fixed

theorem decodeDecCmd_eq_decode_iff {w : BitVec 64} {rate : BitVec 32} :
    decodeDecCmd w = .decode rate ↔ w = 0#16 ++ rate ++ 0#8 ++ 0x02#8 := by
  rw [eq_cmdWord_iff, decodeDecCmd]
  split_ifs with legal
  · obtain ⟨op, ch, rsv⟩ := legal
    rw [Instr.decode.injEq]
    exact ⟨fun field => ⟨op, rsv, ch, field⟩, fun ⟨_, _, _, field⟩ => field⟩
  · exact iff_of_false nofun fun ⟨op, rsv, ch, _⟩ => legal ⟨op, ch, rsv⟩

/-! ### Packets -/

/-- The bytes of `le16`, put back. -/
theorem putLe16_le16 (b0 b1 : Byte) : putLe16 (le16 b0 b1) = [b0, b1] := by
  have h0 := b0.isLt
  have h1 := b1.isLt
  simp only [putLe16_eq, le16_toNat, List.cons.injEq, and_true]
  constructor <;> apply BitVec.eq_of_toNat_eq <;> rw [BitVec.toNat_ofNat] <;> omega

/-- The bytes of `le32`, put back. -/
theorem putLe32_le32 (b0 b1 b2 b3 : Byte) : putLe32 (le32 b0 b1 b2 b3) = [b0, b1, b2, b3] := by
  have h0 := b0.isLt
  have h1 := b1.isLt
  have h2 := b2.isLt
  have h3 := b3.isLt
  simp only [putLe32_eq, le32_toNat, List.cons.injEq, and_true]
  refine ⟨?_, ?_, ?_, ?_⟩ <;> apply BitVec.eq_of_toNat_eq <;> rw [BitVec.toNat_ofNat] <;> omega

theorem decodeHeadPacket_opusHeadBytes (ch : BitVec 8) (preSkip : BitVec 16) (rate : BitVec 32) (gain : BitVec 16)
    (family : BitVec 8) (extra : List Byte) :
    decodeHeadPacket (opusHeadBytes ch preSkip rate gain family extra) = .opusHead ch preSkip rate gain family extra := by
  simp [opusHeadBytes, headMagic, headVersion, putLe16, putLe32, decodeHeadPacket, le16_put, le32_put]

theorem decodeHeadPacket_eq_opusHead_iff {b : List Byte} {ch family : BitVec 8} {preSkip gain : BitVec 16}
    {rate : BitVec 32} {extra : List Byte} :
    decodeHeadPacket b = .opusHead ch preSkip rate gain family extra ↔
      b = opusHeadBytes ch preSkip rate gain family extra := by
  refine ⟨fun decoded => ?_, fun composed => composed ▸ decodeHeadPacket_opusHeadBytes ..⟩
  unfold decodeHeadPacket at decoded
  split at decoded
  · split_ifs at decoded with checks
    obtain ⟨magic, version⟩ := checks
    cases decoded
    rw [opusHeadBytes, putLe16_le16, putLe16_le16, putLe32_le32, ← magic, ← version]
    rfl
  · cases decoded

theorem decodeTagsPacket_opusTagsBytes (vendorLen : BitVec 32) (body : List Byte) :
    decodeTagsPacket (opusTagsBytes vendorLen body) = .opusTags vendorLen body := by
  simp [opusTagsBytes, tagsMagic, putLe32, decodeTagsPacket, le32_put]

theorem decodeTagsPacket_eq_opusTags_iff {b body : List Byte} {vendorLen : BitVec 32} :
    decodeTagsPacket b = .opusTags vendorLen body ↔ b = opusTagsBytes vendorLen body := by
  refine ⟨fun decoded => ?_, fun composed => composed ▸ decodeTagsPacket_opusTagsBytes ..⟩
  unfold decodeTagsPacket at decoded
  split at decoded
  · split_ifs at decoded with magic
    cases decoded
    rw [opusTagsBytes, putLe32_le32, ← magic]
    rfl
  · cases decoded

/-! ### Decoding what was encoded, and the other way -/

/-- Settles O1: the command words and the packets by their inverse laws; every other form carries its code as it is. -/
theorem decodeGivesBackEveryEncodedInstruction : Obligations.DecodeGivesBackEveryEncodedInstruction := by
  intro i wellFormed
  cases i with
  | encode ch rate => exact congrArg Decoded.instr (decodeEncCmd_eq_encode_iff.mpr rfl)
  | decode rate => exact congrArg Decoded.instr (decodeDecCmd_eq_decode_iff.mpr rfl)
  | opusHead ch preSkip rate gain family extra => exact congrArg Decoded.instr (decodeHeadPacket_opusHeadBytes ..)
  | opusTags vendorLen body => exact congrArg Decoded.instr (decodeTagsPacket_opusTagsBytes ..)
  | _ => rfl

/-- Settles O2: the other direction of the same four inverse laws. -/
theorem commandsAndPacketsDecodeWithoutLoss : Obligations.CommandsAndPacketsDecodeWithoutLoss := by
  refine ⟨fun w ch rate decoded => ?encCmd, fun w rate decoded => ?decCmd,
    fun b ch ps r g f x decoded => ?headPacket, fun b l body decoded => ?tagsPacket⟩
  case encCmd => exact congrArg Code.encCmd (decodeEncCmd_eq_encode_iff.mp (Decoded.instr.inj decoded)).symm
  case decCmd => exact congrArg Code.decCmd (decodeDecCmd_eq_decode_iff.mp (Decoded.instr.inj decoded)).symm
  case headPacket => exact congrArg Code.headPacket (decodeHeadPacket_eq_opusHead_iff.mp (Decoded.instr.inj decoded)).symm
  case tagsPacket => exact congrArg Code.tagsPacket (decodeTagsPacket_eq_opusTags_iff.mp (Decoded.instr.inj decoded)).symm

/-- Settles O5: `decode` of what `opusHeadBytes` composes, at ENC's registers. -/
theorem composedIdHeaderDecodes : Obligations.ComposedIdHeaderDecodes :=
  fun _ => congrArg Decoded.instr (decodeHeadPacket_opusHeadBytes ..)

/-- Settles O3: the ten words, run through the decoder. -/
theorem wordsOfTheSpecDecode : Obligations.WordsOfTheSpecDecode := by
  unfold Obligations.WordsOfTheSpecDecode
  decide

/-! ### The reserved codes -/

section ReservedCodes

theorem exists_decodeEncPhase_iff (c : BitVec 4) :
    (∃ i, decodeEncPhase c = .instr i) ↔ c.toNat ≤ 10 ∨ c.toNat = 15 := by
  unfold decodeEncPhase
  split
  any_goals exact iff_of_true ⟨_, rfl⟩ (by omega)
  exact iff_of_false nofun (by simp only [imp_false] at *; omega)

theorem exists_decodeDecPhase_iff (c : BitVec 4) :
    (∃ i, decodeDecPhase c = .instr i) ↔ c.toNat ≤ 5 ∨ c.toNat = 15 := by
  unfold decodeDecPhase
  split
  any_goals exact iff_of_true ⟨_, rfl⟩ (by omega)
  exact iff_of_false nofun (by simp only [imp_false] at *; omega)

theorem exists_decodeEndMark_iff (m : BitVec 2) : (∃ i, decodeEndMark m = .instr i) ↔ m.toNat ≤ 2 := by
  unfold decodeEndMark
  split
  any_goals exact iff_of_true ⟨_, rfl⟩ (by omega)
  exact iff_of_false nofun (by simp only [imp_false] at *; omega)

theorem exists_decodeErrCode_iff (p : Pipe) (info : BitVec 32) (c : BitVec 3) :
    (∃ i, decodeErrCode p c info = .instr i) ↔ c.toNat ≤ 6 := by
  unfold decodeErrCode
  split
  any_goals exact iff_of_true ⟨_, rfl⟩ (by omega)
  exact iff_of_false nofun (by simp only [imp_false] at *; omega)

end ReservedCodes

/-- Settles O4: each of the four code decoders is a match whose last branch alone refuses. -/
theorem exactlyTheReservedCodesAreRefused : Obligations.ExactlyTheReservedCodesAreRefused :=
  ⟨exists_decodeEncPhase_iff, exists_decodeDecPhase_iff, exists_decodeEndMark_iff, exists_decodeErrCode_iff⟩

/-! ### The comment header's checks -/

theorem commentHeaderAccepted_iff (b : List Byte) :
    CommentHeaderAccepted b ↔ ∃ vendorLen body, decodeTagsPacket b = .opusTags vendorLen body := by
  simp only [decodeTagsPacket_eq_opusTags_iff]
  constructor
  · rintro ⟨long, magic⟩
    obtain ⟨r, rfl⟩ : ∃ r, b = tagsMagic ++ r := ⟨b.drop 8, by rw [← List.take_append_drop 8 b, magic]; rfl⟩
    have enough : 4 ≤ r.length := by simpa [tagsMagic] using long
    match r, enough with
    | b0 :: b1 :: b2 :: b3 :: body, _ =>
      exact ⟨le32 b0 b1 b2 b3, body, by rw [opusTagsBytes, putLe32_le32]; rfl⟩
  · rintro ⟨vendorLen, body, rfl⟩
    exact ⟨Nat.le_add_left 12 body.length, rfl⟩

/-- A packet that reads as no comment header is MalformedAudio. -/
theorem decodeTagsPacket_cases (b : List Byte) :
    (∃ vendorLen body, decodeTagsPacket b = .opusTags vendorLen body) ∨ decodeTagsPacket b = .malformedAudio .dec := by
  unfold decodeTagsPacket
  split
  · split_ifs
    · exact .inl ⟨_, _, rfl⟩
    · exact .inr rfl
  · exact .inr rfl

/-- Settles O37: a packet is accepted exactly when it decodes to OPUSTAGS, and every other one decodes to the error. -/
theorem secondPacketIsChecked : Obligations.SecondPacketIsChecked := by
  intro s b
  refine ⟨decodeTagsPacket b, rfl, fun accepted => ?taken, fun rejected => ?malformed⟩
  case taken =>
    obtain ⟨vendorLen, body, tags⟩ := (commentHeaderAccepted_iff b).mp accepted
    rw [tags]
    rfl
  case malformed =>
    rw [(decodeTagsPacket_cases b).resolve_left (mt (commentHeaderAccepted_iff b).mpr rejected)]
    rfl

end Sys2Proof.Proofs
end

section
/-! PROOF. Commands, CONV's rate check, the error codes and the resting phases (30_encoding.md R60 to R63, R65; 40_convert.md R92;
60_exceptions.md R200 to R206; 70_reset_and_hazards.md R230). -/

namespace Sys2Proof.Proofs

open Sys2Proof.Machine

/-! ### A command at a pipeline, BUSY or not -/

section Commands
variable {s : State} {ch : BitVec 8} {rate : BitVec 32}

theorem exec_encode_of_busy (busy : status .enc s = .busy) : exec (.encode ch rate) s = .next s := if_pos busy

theorem exec_encode_of_le (free : status .enc s ≠ .busy) (legal : ch.toNat ≤ 2) :
    exec (.encode ch rate) s = .next (acceptEncode ch rate s) :=
  (if_neg free).trans (if_neg (Nat.not_lt.mpr legal))

theorem exec_encode_of_lt (free : status .enc s ≠ .busy) (illegal : 2 < ch.toNat) :
    exec (.encode ch rate) s = .next (encRaised 6 0 s) :=
  (if_neg free).trans (if_pos illegal)

theorem exec_decode_of_busy (busy : status .dec s = .busy) : exec (.decode rate) s = .next s := if_pos busy

theorem exec_decode_of_free (free : status .dec s ≠ .busy) :
    exec (.decode rate) s = .next (acceptDecode rate s) := if_neg free

theorem exec_illegalCommand_of_busy {p : Pipe} (busy : status p s = .busy) :
    exec (.illegalCommand p) s = .next s := if_pos busy

theorem exec_illegalCommand_of_free {p : Pipe} (free : status p s ≠ .busy) :
    exec (.illegalCommand p) s = .next (raise p .illegalCommand 0 s) := if_neg free

end Commands

/-- A word at ENC.CMD reads as the command of its fields, or as an illegal one. -/
theorem decodeEncCmd_cases (w : BitVec 64) :
    (∃ ch rate, decodeEncCmd w = .encode ch rate) ∨ decodeEncCmd w = .illegalCommand .enc := by
  unfold decodeEncCmd
  split_ifs
  · exact .inl ⟨_, _, rfl⟩
  · exact .inr rfl

theorem decodeDecCmd_cases (w : BitVec 64) :
    (∃ rate, decodeDecCmd w = .decode rate) ∨ decodeDecCmd w = .illegalCommand .dec := by
  unfold decodeDecCmd
  split_ifs
  · exact .inl ⟨_, rfl⟩
  · exact .inr rfl

/-- Settles O8: acceptance is the only thing a legal command does, and at a BUSY pipeline both readings of a word are dropped. -/
theorem commandIsAcceptedUnlessBusy : Obligations.CommandIsAcceptedUnlessBusy := by
  intro s ch rate w
  refine ⟨exec_encode_of_le, exec_decode_of_free, fun busy => ⟨decodeEncCmd w, rfl, ?encDropped⟩,
    fun busy => ⟨decodeDecCmd w, rfl, ?decDropped⟩⟩
  case encDropped =>
    obtain ⟨ch, rate, command⟩ | illegal := decodeEncCmd_cases w
    · rw [command, exec_encode_of_busy busy]
    · rw [illegal, exec_illegalCommand_of_busy busy]
  case decDropped =>
    obtain ⟨rate, command⟩ | illegal := decodeDecCmd_cases w
    · rw [command, exec_decode_of_busy busy]
    · rw [illegal, exec_illegalCommand_of_busy busy]

/-! ### Legal and illegal command words, by their number -/

/-- RSV is the top field of the word, so its value needs no remainder. -/
theorem rsv_eq_zero_iff (w : BitVec 64) : w.extractLsb' 48 16 = 0 ↔ w.toNat / 281474976710656 = 0 := by
  have bound := w.isLt
  rw [extractLsb'_eq_iff]
  change _ = 0 ↔ _
  omega

theorem op_eq_iff (w : BitVec 64) (op : BitVec 8) : w.extractLsb' 0 8 = op ↔ w.toNat % 256 = op.toNat := by
  rw [extractLsb'_eq_iff, pow_zero, Nat.div_one]
  exact Iff.rfl

theorem ch_toNat (w : BitVec 64) : (w.extractLsb' 8 8).toNat = w.toNat / 256 % 256 := extractLsb'_eq_iff.mp rfl |>.symm

theorem rate_toNat (w : BitVec 64) : (w.extractLsb' 16 32).toNat = w.toNat / 65536 % 4294967296 :=
  extractLsb'_eq_iff.mp rfl |>.symm

theorem decodeEncCmd_of_legal {w : BitVec 64} (op : w.toNat % 256 = 1) (rsv : w.toNat / 281474976710656 = 0) :
    decodeEncCmd w = .encode (w.extractLsb' 8 8) (w.extractLsb' 16 32) :=
  if_pos ⟨(op_eq_iff w 1).mpr op, (rsv_eq_zero_iff w).mpr rsv⟩

theorem decodeEncCmd_of_illegal {w : BitVec 64} (illegal : ¬ (w.toNat % 256 = 1 ∧ w.toNat / 281474976710656 = 0)) :
    decodeEncCmd w = .illegalCommand .enc :=
  if_neg fun ⟨op, rsv⟩ => illegal ⟨(op_eq_iff w 1).mp op, (rsv_eq_zero_iff w).mp rsv⟩

theorem ch_eq_zero_iff (w : BitVec 64) : w.extractLsb' 8 8 = 0 ↔ w.toNat / 256 % 256 = 0 := extractLsb'_eq_iff

theorem decodeDecCmd_of_legal {w : BitVec 64} (op : w.toNat % 256 = 2) (rsv : w.toNat / 281474976710656 = 0)
    (ch : w.toNat / 256 % 256 = 0) : decodeDecCmd w = .decode (w.extractLsb' 16 32) :=
  if_pos ⟨(op_eq_iff w 2).mpr op, (ch_eq_zero_iff w).mpr ch, (rsv_eq_zero_iff w).mpr rsv⟩

theorem decodeDecCmd_of_illegal {w : BitVec 64}
    (illegal : ¬ (w.toNat % 256 = 2 ∧ w.toNat / 256 % 256 = 0 ∧ w.toNat / 281474976710656 = 0)) :
    decodeDecCmd w = .illegalCommand .dec :=
  if_neg fun ⟨op, ch, rsv⟩ =>
    illegal ⟨(op_eq_iff w 2).mp op, (ch_eq_zero_iff w).mp ch, (rsv_eq_zero_iff w).mp rsv⟩

/-- Settles O9: OP and RSV are the decoder's checks; a channel operand above 2 passes it and is refused by ENCODE itself. -/
theorem illegalCommandWordsRaise : Obligations.IllegalCommandWordsRaise := by
  intro s w
  refine ⟨fun free illegal => ⟨decodeEncCmd w, rfl, ?encIllegal⟩, fun free illegal => ⟨decodeDecCmd w, rfl, ?decIllegal⟩,
    fun op rsv ch => ⟨_, _, congrArg Decoded.instr (decodeEncCmd_of_legal op rsv), ch_toNat w, rate_toNat w⟩,
    fun op rsv ch => ⟨_, congrArg Decoded.instr (decodeDecCmd_of_legal op rsv ch), rate_toNat w⟩⟩
  case encIllegal =>
    by_cases fixed : w.toNat % 256 = 1 ∧ w.toNat / 281474976710656 = 0
    · obtain ⟨op, rsv⟩ := fixed
      have tooMany : 2 < (w.extractLsb' 8 8).toNat := by rw [ch_toNat]; omega
      rw [decodeEncCmd_of_legal op rsv, exec_encode_of_lt free tooMany]
    · rw [decodeEncCmd_of_illegal fixed, exec_illegalCommand_of_free free]
      rfl
  case decIllegal =>
    rw [decodeDecCmd_of_illegal (by omega), exec_illegalCommand_of_free free]
    rfl

/-! ### VALRATE -/

theorem exec_valrate_of_supported {v : BitVec 64} (supported : v.toNat ∈ Config.rates) (s : State) :
    exec (.valrate v) s = .next (driveConv (some v.toNat) s) :=
  congrArg (fun r => Host.Outcome.next (driveConv r s)) (if_pos ((rateOk_iff _).mpr supported))

theorem exec_valrate_of_unsupported {v : BitVec 64} (unsupported : v.toNat ∉ Config.rates) (s : State) :
    exec (.valrate v) s = .next (driveConv none s) :=
  congrArg (fun r => Host.Outcome.next (driveConv r s)) (if_neg (mt (rateOk_iff _).mp unsupported))

/-- Settles O12: VALRATE is the membership test, and what it drives for a member is the rate itself. -/
theorem valrateAcceptsExactlyTheFiveRates : Obligations.ValrateAcceptsExactlyTheFiveRates := by
  intro v s
  refine ⟨fun supported => ?ok, fun unsupported => ?notOk, rfl⟩
  case ok =>
    obtain ⟨r, value, driven⟩ := driveConv_some_of_lt v.isLt s
    rw [exec_valrate_of_supported supported, driven, BitVec.eq_of_toNat_eq value]
  case notOk => rw [exec_valrate_of_unsupported unsupported, driveConv_none]

/-! ### E_SERIAL without a sample, the header operations -/

theorem sampleRand_of_unsupplied {s : State} (unsupplied : s.randIn = []) :
    sampleRand s = (Config.rand32 s.freeCount, s.withFreeCount (s.freeCount + 1)) := by
  rw [sampleRand, unsupplied]

/-- Settles O19: the free value takes the place of the supplied one. -/
theorem serialWithoutASuppliedSample : Obligations.SerialWithoutASuppliedSample :=
  fun _ unsupplied => exec_eSerial_of_sampleRand (sampleRand_of_unsupplied unsupplied)

/-- Settles O38: the channel byte is the one check left to OPUSHEAD, and OPUSTAGS has none. -/
theorem headerOperationsCompleteTheirPhase : Obligations.HeaderOperationsCompleteTheirPhase :=
  fun _ _ _ _ _ _ _ _ => ⟨exec_opusHead_of_channels, fun notMono notStereo =>
    exec_opusHead_of_not_channels fun channels => channels.elim notMono notStereo, rfl⟩

/-! ### Errors, rest, reset -/

/-- Settles O46: each code's meaning is `raise` of its kind, and IllegalCommand's is dropped by a BUSY pipeline only. -/
theorem errorCodesRaise : Obligations.ErrorCodesRaise :=
  fun _ _ => ⟨⟨rfl, rfl⟩, ⟨rfl, rfl⟩, ⟨rfl, rfl⟩, ⟨rfl, rfl⟩, ⟨rfl, rfl⟩, exec_illegalCommand_of_free,
    exec_illegalCommand_of_free, rfl, rfl⟩

/-- D_DONE's OUT_CH holds the channel byte itself. -/
theorem completeDec_eq (s : State) :
    ∃ outCh : BitVec 16, outCh.toNat = s.dec.ch.toNat ∧
      completeDec s = { s with
        dec := { s.dec with phase := 5, pend := .start, outCh := outCh }, opusDec := { s.opusDec with inst := none } } :=
  ⟨s.dec.ch.setWidth 16, BitVec.toNat_setWidth_of_le (by decide), rfl⟩

/-- Settles O47: the six phases by their meanings. -/
theorem restingPhasesRest : Obligations.RestingPhasesRest := by
  intro s
  obtain ⟨outCh, value, completed⟩ := completeDec_eq s
  exact ⟨rfl, rfl, rfl, rfl, rfl, outCh, value, congrArg Host.Outcome.next completed⟩

/-- Settles O51: reset's own values, and RESET writes the same ones over any state. -/
theorem resetLeavesTheValuesTheSpecGives : Obligations.ResetLeavesTheValuesTheSpecGives := by
  refine ⟨fun s isReset => ?values, fun u => ⟨resetOp u, rfl, rfl⟩⟩
  case values =>
    obtain rfl | ⟨u, ran⟩ := isReset
    · decide
    · cases ran
      exact ⟨rfl, rfl, rfl, rfl, rfl, rfl, rfl, rfl, rfl, rfl, rfl, rfl, rfl, rfl, rfl, rfl⟩

end Sys2Proof.Proofs
end

section
/-! PROOF. The step: which word the moving agent's place holds, and what running it is (10_state.md R14; 30_encoding.md R60, R64,
R72; 60_exceptions.md R215). -/

namespace Sys2Proof.Proofs

open Sys2Proof.Machine

/-! ### Fetching, by the agent that moves -/

section Fetching
variable {s : State} {rest : List Agent} {op : HostOp} {ops : List HostOp} {c : Code}

theorem fetch_of_enc (moves : s.sched = .enc :: rest) : fetch s = .code (encCode s) { s with sched := rest } := by
  simp only [fetch, nextAgent, moves]
  rfl

theorem fetch_of_dec (moves : s.sched = .dec :: rest) : fetch s = .code (decCode s) { s with sched := rest } := by
  simp only [fetch, nextAgent, moves]
  rfl

/-- The host moves when it stands first in the schedule, and when the schedule is empty; `rest` follows it. -/
def HostMoves (s : State) (rest : List Agent) : Prop := nextAgent s = (.host, { s with sched := rest })

theorem hostMoves_of_sched (moves : s.sched = .host :: rest) : HostMoves s rest := by
  simp only [HostMoves, nextAgent, moves]
  rfl

theorem hostMoves_of_empty (empty : s.sched = []) : HostMoves s [.enc, .dec] := by
  simp only [HostMoves, nextAgent, empty]
  rfl

theorem fetch_of_hostCode (moves : HostMoves s rest) (queued : s.inputs = op :: ops) (word : hostCode op = some c) :
    fetch s = .code c { s with sched := rest, inputs := ops } := by
  simp only [HostMoves] at moves
  simp only [fetch, moves, queued, word]
  rfl

theorem fetch_of_hostOp (moves : HostMoves s rest) (queued : s.inputs = op :: ops) (noWord : hostCode op = none) :
    fetch s = .op op { s with sched := rest, inputs := ops } := by
  simp only [HostMoves] at moves
  simp only [fetch, moves, queued, noWord]
  rfl

theorem fetch_of_hostIdle (moves : HostMoves s rest) (noOps : s.inputs = []) : fetch s = .idle { s with sched := rest } := by
  simp only [HostMoves] at moves
  simp only [fetch, moves, noOps]

end Fetching

theorem run_of_instr {c : Code} {i : Instr} (word : decode c = .instr i) (s : State) : run (.code c s) = exec i s := by
  simp only [run, word]

/-- A word at a host's port reads as an instruction whatever it is. -/
theorem exists_decode_of_hostCode {op : HostOp} {c : Code} (word : hostCode op = some c) : ∃ i, decode c = .instr i := by
  cases op <;> cases word <;> exact ⟨_, rfl⟩

/-- Settles O6: fetching goes by the agent, running by what the fetched word decodes to. -/
theorem stepRunsTheDecodedInstruction : Obligations.StepRunsTheDecodedInstruction := by
  refine ⟨fun s i => ⟨fun rest moves word => ?enc, fun rest moves word => ?dec,
      fun rest op ops c moves queued code word => ?host, fun op ops c empty queued code word => ?hostFirst⟩,
    fun op c => exists_decode_of_hostCode, fun s op ops queued noWord => ⟨fun rest moves => ?op, fun empty => ?opFirst⟩,
    fun s noOps => ⟨fun rest moves => ?idle, fun empty => ?idleFirst⟩,
    fun s rest moves => ⟨fun c word => ?encPhase, fun word => ?endMark, fun word => ?encErr⟩,
    fun s rest moves => ⟨fun c word => ?decPhase, fun word => ?decErr⟩⟩
  case enc => rw [step, fetch_of_enc moves, run_of_instr word]
  case dec => rw [step, fetch_of_dec moves, run_of_instr word]
  case host => rw [step, fetch_of_hostCode (hostMoves_of_sched moves) queued code, run_of_instr word]
  case hostFirst => rw [step, fetch_of_hostCode (hostMoves_of_empty empty) queued code, run_of_instr word]
  case op => rw [step, fetch_of_hostOp (hostMoves_of_sched moves) queued noWord, run]
  case opFirst => rw [step, fetch_of_hostOp (hostMoves_of_empty empty) queued noWord, run]
  case idle => rw [step, fetch_of_hostIdle (hostMoves_of_sched moves) noOps, run]
  case idleFirst => rw [step, fetch_of_hostIdle (hostMoves_of_empty empty) noOps, run]
  case encPhase | endMark | encErr => simp only [step, fetch_of_enc moves, run, word]
  case decPhase | decErr => simp only [step, fetch_of_dec moves, run, word]

/-! ### Placing a word -/

/-- A packet of a length that DEC.PKT.LEN holds reads back as it was placed in PKT_IN. -/
theorem pktBytes_of_written {s : State} {b : List Byte} (bytes : s.dec.pktIn = Memory.writeBlock [] 0 b)
    (len : s.dec.pktLen = toU32 b.length) (fits : b.length < 4294967296) : pktBytes s = b := by
  rw [pktBytes, bytes, len, toU32_toNat _ fits]
  exact Memory.readBlock_writeBlock ..

/-- Settles O7: placing puts the place's agent first, and a pending action that would stand before the placed word away. -/
theorem placedWordIsFetchedNext : Obligations.PlacedWordIsFetchedNext := by
  intro c s short
  cases c with
  | encCmd w => exact ⟨_, rfl⟩
  | decCmd w => exact ⟨_, rfl⟩
  | conv sel value src dst => exact ⟨_, rfl⟩
  | encPhase c =>
    refine ⟨_, (fetch_of_enc rfl).trans (congrArg (Fetched.code · _) ?_)⟩
    simp only [placeCode, encCode, State.withSched_enc, State.withEnc_enc]
    cases s.enc.pend <;> rfl
  | decPhase c =>
    refine ⟨_, (fetch_of_dec rfl).trans (congrArg (Fetched.code · _) ?_)⟩
    simp only [placeCode, decCode, State.withSched_dec, State.withDec_dec]
    cases s.dec.pend <;> rfl
  | endMark m =>
    refine ⟨_, (fetch_of_enc rfl).trans (congrArg (Fetched.code · _) ?_)⟩
    simp only [placeCode, encCode, State.withSched_enc, State.withEnc_enc]
    cases s.enc.pend <;> rfl
  | errCode p c info => cases p <;> exact ⟨_, rfl⟩
  | headPacket b =>
    refine ⟨_, (fetch_of_dec rfl).trans (congrArg (Fetched.code · _) ?_)⟩
    exact congrArg Code.headPacket (pktBytes_of_written rfl rfl (short b (.inl rfl)))
  | tagsPacket b =>
    refine ⟨_, (fetch_of_dec rfl).trans (congrArg (Fetched.code · _) ?_)⟩
    exact congrArg Code.tagsPacket (pktBytes_of_written rfl rfl (short b (.inr rfl)))

end Sys2Proof.Proofs
end

section
/-! PROOF. The arithmetic laws: the scale identity, the tail durations, interleaving (40_convert.md R95; 43_encode.md R171;
41_pcm.md R110). -/

namespace Sys2Proof.Proofs

open Sys2Proof.Machine

/-! ### The scale identity -/

/-- Inside their domains the two scales are the same floor. -/
theorem scale_eq_some {scale : Nat → Nat → Nat → Option Nat} (isScale : scale = scale64 ∨ scale = scale16)
    {v src dst r : Nat} (inside : scale v src dst = some r) : 0 < src ∧ r = v * dst / src := by
  obtain rfl | rfl := isScale
  · obtain ⟨nonzero, -, floor⟩ := (scale64_eq_some ..).mp inside
    exact ⟨Nat.pos_of_ne_zero nonzero, floor⟩
  · obtain ⟨nonzero, -, floor⟩ := (scale16_eq_some ..).mp inside
    exact ⟨Nat.pos_of_ne_zero nonzero, floor⟩

/-- Settles O13: all are laws of the floor of a quotient, whichever domain it is taken in. -/
theorem scaleIsMonotoneAndAlmostAdditive : Obligations.ScaleIsMonotoneAndAlmostAdditive := by
  intro scale isScale a b x y z src dst scaledA scaledB
  obtain ⟨pos, rfl⟩ := scale_eq_some isScale scaledA
  obtain ⟨-, rfl⟩ := scale_eq_some isScale scaledB
  refine ⟨fun le => ?monotone, fun scaledSum => ?additive, fun same => ?identity, fun zero => ?zero,
    Nat.div_mul_le_self .., ?upper⟩
  case monotone => exact Nat.div_le_div_right (Nat.mul_le_mul_right dst le)
  case additive =>
    obtain ⟨-, rfl⟩ := scale_eq_some isScale scaledSum
    rw [Nat.add_mul, Nat.add_div pos]
    split_ifs
    · exact .inr rfl
    · exact .inl rfl
  case identity => rw [← same, Nat.mul_div_cancel a pos]
  case zero => rw [zero, Nat.zero_mul, Nat.zero_div]
  case upper =>
    rw [Nat.succ_mul]
    exact Nat.lt_div_mul_add pos

/-! ### The durations of E_TAIL -/

theorem le_of_find?_eq_some {l : List Nat} {p : Nat → Bool} {d d' : Nat} (falling : l.Pairwise (· ≥ ·))
    (found : l.find? p = some d) (listed : d' ∈ l) (holds : p d' = true) : d' ≤ d := by
  obtain ⟨-, before, after, rfl, skipped⟩ := List.find?_eq_some_iff_append.mp found
  obtain earlier | rfl | later : d' ∈ before ∨ d' = d ∨ d' ∈ after := by simpa using listed
  · simpa [holds] using skipped d' earlier
  · exact le_rfl
  · exact (List.pairwise_cons.mp (List.pairwise_append.mp falling).2.1).1 d' later

theorem tailDurations_falling (rate : Nat) : (tailDurations rate).Pairwise (· ≥ ·) := by
  simp only [tailDurations, List.pairwise_cons, List.mem_cons, List.not_mem_nil, or_false, forall_eq_or_imp, forall_eq,
    List.Pairwise.nil, and_true, false_implies, implies_true]
  omega

/-- E_TAIL picks the longest duration whose frame fits. -/
theorem tailPick_eq_some_iff {rate ch pos total d : Nat} :
    tailPick rate ch pos total = some d ↔
      d ∈ tailDurations rate ∧ pos + d * ch ≤ total ∧
        ∀ d' ∈ tailDurations rate, pos + d' * ch ≤ total → d' ≤ d := by
  have longest : ∀ e, tailPick rate ch pos total = some e → ∀ d' ∈ tailDurations rate, pos + d' * ch ≤ total → d' ≤ e :=
    fun e picked d' listed fits =>
      le_of_find?_eq_some (tailDurations_falling rate) picked listed (decide_eq_true fits)
  constructor
  · intro picked
    obtain ⟨listed, fits⟩ := tailPick_eq_some _ _ _ _ _ picked
    exact ⟨listed, fits, longest d picked⟩
  · rintro ⟨listed, fits, isLongest⟩
    cases picked : tailPick rate ch pos total with
    | none => exact absurd fits (Nat.not_le.mpr (tailPick_eq_none _ _ _ _ picked d listed))
    | some e =>
      obtain ⟨listed', fits'⟩ := tailPick_eq_some _ _ _ _ _ picked
      exact congrArg some (Nat.le_antisymm (isLongest e listed' fits') (longest e picked d listed fits))

theorem tailPick_eq_none_iff {rate ch pos total : Nat} :
    tailPick rate ch pos total = none ↔ ∀ d ∈ tailDurations rate, total < pos + d * ch := by
  refine ⟨tailPick_eq_none _ _ _ _, fun none => ?_⟩
  refine List.find?_eq_none.mpr fun d listed => ?_
  simpa using none d listed

/-- Each of a supported rate's durations is twice the next, so all are multiples of the smallest. -/
theorem durations_of_supported :
    ∀ rate ∈ Config.rates, rate / 50 = 8 * (rate / 400) ∧ rate / 100 = 4 * (rate / 400) ∧ rate / 200 = 2 * (rate / 400) ∧
      0 < rate / 400 := by decide

/-- Settles O34: the duration above the one that fits is twice as long and does not fit, so less than one such frame is left. -/
theorem tailFitsStrictlyFall : Obligations.TailFitsStrictlyFall := by
  intro rate ch pos total d supported channels short picked
  obtain ⟨h50, h100, h200, positive⟩ := durations_of_supported rate supported
  obtain ⟨listed, fits, longest⟩ := tailPick_eq_some_iff.mp picked
  have left : d ∈ [rate / 100, rate / 200, rate / 400] ∧ total - (pos + d * ch) < d * ch := by
    simp only [tailDurations, List.mem_cons, List.not_mem_nil, or_false, forall_eq_or_imp, forall_eq, h50, h100,
      h200] at listed longest short ⊢
    obtain rfl | rfl := channels <;> omega
  refine ⟨left.1, fits, left.2, fun d' picked' => ?_⟩
  obtain ⟨-, fits'⟩ := tailPick_eq_some _ _ _ _ _ picked'
  exact Nat.lt_of_mul_lt_mul_right (a := ch) (by omega)

/-! ### Interleaving -/

theorem dilv_ilv {nch c : Nat} (k : Nat) (hc : c < nch) : dilv nch (ilv nch k c) = (k, c) := by
  have pos : 0 < nch := Nat.zero_lt_of_lt hc
  rw [dilv, ilv, Nat.add_comm, Nat.add_mul_div_right _ _ pos, Nat.add_mul_mod_self_right, Nat.div_eq_of_lt hc,
    Nat.mod_eq_of_lt hc, Nat.zero_add]

theorem ilv_dilv (nch e : Nat) : ilv nch (dilv nch e).1 (dilv nch e).2 = e := Nat.div_add_mod' e nch

/-- Settles O44: ILV is the division with remainder read backwards, and a sample frame's elements are those of its quotient. -/
theorem interleavingIsABijectionOfFrames : Obligations.InterleavingIsABijectionOfFrames := by
  intro nch pos
  refine ⟨fun k c hc => dilv_ilv k hc, fun e => ⟨ilv_dilv nch e, Nat.mod_lt e pos⟩, fun k0 k1 e => ⟨?frame, ?element⟩⟩
  case frame =>
    rintro ⟨lower, upper⟩
    exact ⟨e / nch, e % nch, (Nat.le_div_iff_mul_le pos).mpr lower, (Nat.div_lt_iff_lt_mul pos).mpr upper, Nat.mod_lt e pos,
      (ilv_dilv nch e).symm⟩
  case element =>
    rintro ⟨k, c, lower, upper, hc, rfl⟩
    exact ⟨(Nat.mul_le_mul_right nch lower).trans (Nat.le_add_right ..), ilv_lt_mul upper hc⟩

end Sys2Proof.Proofs
end

section
/-! PROOF. ENC's audio phases: the loop tests, the encode and final_range transactions, the packets they post and what follows
once they are written (43_encode.md R166, R167, R170 to R174; 60_exceptions.md R216). -/

namespace Sys2Proof.Proofs

open Sys2Proof.Machine

/-! ### The loop tests -/

section LoopTests
variable {s : State}

theorem exec_eMain_of_start (start : s.enc.pend = .start) : exec .eMain s = .next (mainStart s) := by
  simp only [exec, execEMain, start]

theorem exec_eMain_of_loop (loop : s.enc.pend = .loop) : exec .eMain s = .next (mainLoop s) := by
  simp only [exec, execEMain, loop]

theorem exec_eTail_of_start (start : s.enc.pend = .start) : exec .eTail s = .next (tailLoop s) := by
  simp only [exec, execETail, start]

theorem exec_eFinal_of_start (start : s.enc.pend = .start) : exec .eFinal s = .next (finalStart s) := by
  simp only [exec, execEFinal, start]

theorem frameSamples_eq (rate : Nat) : frameSamples rate = rate / 50 := by
  simp only [frameSamples, Config.frameMs]
  omega

/-- A 20 ms frame of any 32-bit rate and any channel byte has far fewer than 2^64 slots. -/
theorem frameSlots_lt (rate : BitVec 32) (ch : BitVec 8) : rate.toNat / 50 * ch.toNat < 2 ^ 40 := calc
  rate.toNat / 50 * ch.toNat ≤ 2 ^ 32 * ch.toNat :=
    Nat.mul_le_mul_right _ ((Nat.div_le_self ..).trans rate.isLt.le)
  _ < 2 ^ 32 * 2 ^ 8 := Nat.mul_lt_mul_of_pos_left ch.isLt (by decide)
  _ = 2 ^ 40 := by decide

/-- The registers that R170 sets before the loop hold the exact numbers. -/
theorem mainStart_of_ne (nonzero : s.enc.rate.toNat / 50 * s.enc.ch.toNat ≠ 0) :
    ∃ fs fsz max : BitVec 64, fs.toNat = s.enc.rate.toNat / 50 ∧ fsz.toNat = fs.toNat * s.enc.ch.toNat ∧
      max.toNat = s.enc.total.toNat / fsz.toNat ∧
      mainStart s = { s with enc := { s.enc with fs := fs, fsz := fsz, max := max, idx := 0, pend := .loop } } := by
  have fszFits := Nat.lt_trans (frameSlots_lt s.enc.rate s.enc.ch) (by decide : 2 ^ 40 < 2 ^ 64)
  have fsFits : s.enc.rate.toNat / 50 < 2 ^ 64 := Nat.lt_of_le_of_lt (Nat.div_le_self ..) (s.enc.rate.isLt.trans (by decide))
  have maxFits := Nat.lt_of_le_of_lt (Nat.div_le_self s.enc.total.toNat (s.enc.rate.toNat / 50 * s.enc.ch.toNat))
    s.enc.total.isLt
  refine ⟨toU64 (s.enc.rate.toNat / 50), toU64 (s.enc.rate.toNat / 50 * s.enc.ch.toNat),
    toU64 (s.enc.total.toNat / (s.enc.rate.toNat / 50 * s.enc.ch.toNat)), toU64_toNat _ fsFits, ?fsz, ?max, ?start⟩
  case fsz => rw [toU64_toNat _ fszFits, toU64_toNat _ fsFits]
  case max => rw [toU64_toNat _ maxFits, toU64_toNat _ fszFits]
  case start =>
    simp only [mainStart, frameSamples_eq, if_neg nonzero]
    rfl

theorem mainLoop_of_lt (under : s.enc.idx.toNat < s.enc.max.toNat) :
    mainLoop s = frameFill (s.enc.idx.toNat * s.enc.fsz.toNat) s.enc.fsz.toNat s := if_pos under

theorem mainLoop_of_le (done : s.enc.max.toNat ≤ s.enc.idx.toNat) :
    mainLoop s = { s with
      enc := { s.enc with pos := toU64 (s.enc.max.toNat * s.enc.fsz.toNat), phase := 8, pend := .start } } :=
  if_neg (Nat.not_lt.mpr done)

theorem tailLoop_of_some {d : Nat}
    (picked : tailPick s.enc.rate.toNat s.enc.ch.toNat s.enc.pos.toNat s.enc.total.toNat = some d) :
    tailLoop s = frameFill s.enc.pos.toNat (d * s.enc.ch.toNat) s := by
  simp only [tailLoop, picked]

theorem tailLoop_of_none
    (none : tailPick s.enc.rate.toNat s.enc.ch.toNat s.enc.pos.toNat s.enc.total.toNat = none) :
    tailLoop s = { s with enc := { s.enc with phase := 9, pend := .start } } := by
  simp only [tailLoop, none]
  rfl

theorem finalStart_of_lt (remainder : s.enc.pos.toNat < s.enc.total.toNat) :
    finalStart s = frameFill s.enc.pos.toNat (s.enc.rate.toNat / 400 * s.enc.ch.toNat) s := if_pos remainder

theorem finalStart_of_le (none : s.enc.total.toNat ≤ s.enc.pos.toNat) : finalStart s = completeEnc s :=
  if_neg (Nat.not_lt.mpr none)

end LoopTests

/-- A supported rate and one or two channels give a frame of some slots. -/
theorem frameSlots_ne_zero {rate : BitVec 32} {ch : BitVec 8} (supported : rate.toNat ∈ Config.rates)
    (channels : ch = 1 ∨ ch = 2) : rate.toNat / 50 * ch.toNat ≠ 0 := by
  obtain ⟨h50, -, -, positive⟩ := durations_of_supported _ supported
  refine Nat.mul_ne_zero (by omega) ?_
  obtain rfl | rfl := channels <;> decide

/-- Settles O24: the registers before the loop, then the loop test's two sides. -/
theorem mainLoopCountsWholeFrames : Obligations.MainLoopCountsWholeFrames := by
  intro s
  refine ⟨fun start supported channels => ?registers, fun loop under => ?frame, fun loop done fits => ?tail⟩
  case registers =>
    obtain ⟨fs, fsz, max, hfs, hfsz, hmax, started⟩ := mainStart_of_ne (frameSlots_ne_zero supported channels)
    exact ⟨fs, fsz, max, hfs.trans (frameSamples_eq _).symm, hfsz, hmax,
      (exec_eMain_of_start start).trans (congrArg _ started)⟩
  case frame => rw [exec_eMain_of_loop loop, mainLoop_of_lt under]
  case tail =>
    exact ⟨toU64 (s.enc.max.toNat * s.enc.fsz.toNat), toU64_toNat _ fits,
      (exec_eMain_of_loop loop).trans (congrArg _ (mainLoop_of_le done))⟩

/-- Settles O25: the longest fitting duration is the one E_TAIL picks. -/
theorem tailPicksTheLongestFittingDuration : Obligations.TailPicksTheLongestFittingDuration := by
  intro s d start
  rw [exec_eTail_of_start start]
  exact ⟨fun listed fits longest => congrArg _ (tailLoop_of_some (tailPick_eq_some_iff.mpr ⟨listed, fits, longest⟩)),
    fun none => congrArg _ (tailLoop_of_none (tailPick_eq_none_iff.mpr none))⟩

/-- Settles O26: the test of POS against TOTAL. -/
theorem finalPadsTheRemainderOrCompletes : Obligations.FinalPadsTheRemainderOrCompletes := by
  intro s start
  rw [exec_eFinal_of_start start]
  exact ⟨fun remainder => congrArg _ (finalStart_of_lt remainder), fun none => congrArg _ (finalStart_of_le none)⟩

/-! ### The two transactions of ENCFRAME -/

/-- ENC after OPUSENC has answered the encode transaction, before anything is made of the answer. -/
def encodeAsked (slots : Nat) (rest : List (Answer (List Byte))) (s : State) : State :=
  { s with opusEnc := { s.opusEnc with
    script := { s.opusEnc.script with encode := rest }
    sent := s.opusEnc.sent ++
      [.encode (samplesAt .frameBuf s.enc.frameBuf 0 slots) (slots / s.enc.ch.toNat) 4000] } }

/-- ENC with a compressed frame at the start of ENC.PKTBUF. -/
def encoded (slots : Nat) (bytes : List Byte) (rest : List (Answer (List Byte))) (s : State) : State :=
  { encodeAsked slots rest s with enc := { s.enc with pktBuf := Memory.writeBlock s.enc.pktBuf 0 bytes } }

/-- ENC with the final range of its frame in ENC.DIAG. -/
def encRanged (v : BitVec 32) (rest : List (BitVec 32)) (s : State) : State :=
  { s with
    enc := { s.enc with diag := v, diagV := true }
    opusEnc := { s.opusEnc with
      script := { s.opusEnc.script with range := rest }, sent := s.opusEnc.sent ++ [.finalRange] } }

section Transactions
variable {s : State} (post : Nat → Nat → State → State) (slots : Nat)

theorem encodeFrame_of_err {reason : BitVec 32} {rest : List (Answer (List Byte))}
    (answer : s.opusEnc.script.encode = .err reason :: rest) :
    encodeFrame post slots s = encRaised 3 reason (encodeAsked slots rest s) := by
  rw [encodeFrame, answer]
  rfl

variable {bytes : List Byte} {rest : List (Answer (List Byte))} (answer : s.opusEnc.script.encode = .ok bytes :: rest)
include answer

theorem encodeFrame_of_lt (long : 4000 < bytes.length) :
    encodeFrame post slots s = encRaised 5 0 (encodeAsked slots rest s) := by
  rw [encodeFrame, answer]
  exact if_pos long

theorem encodeFrame_of_le (fits : bytes.length ≤ 4000) :
    encodeFrame post slots s =
      if s.params.diagEn then encPend (.range bytes.length slots) (encoded slots bytes rest s)
      else post bytes.length slots (encoded slots bytes rest s) := by
  rw [encodeFrame, answer]
  exact if_neg (Nat.not_lt.mpr fits)

end Transactions

theorem encodeRange_of_value {s : State} {v : BitVec 32} {rest : List (BitVec 32)}
    (answer : s.opusEnc.script.range = v :: rest) (post : Nat → Nat → State → State) (len slots : Nat) :
    encodeRange post len slots s = post len slots (encRanged v rest s) := by
  rw [encodeRange, answer]
  rfl

/-- Settles O30: the three phases share the encode transaction, and both failures come before their own part in it. -/
theorem encodeTransactionFailures : Obligations.EncodeTransactionFailures := by
  intro s slots rest i audio pending asked
  obtain ⟨post, asks, -⟩ := exec_audioPhase audio s
  rw [asks slots pending]
  exact ⟨fun reason answer => congrArg _ (encodeFrame_of_err post slots answer),
    fun bytes answer long => congrArg _ (encodeFrame_of_lt post slots answer long)⟩

/-! ### From the last transaction to the packet -/

/-- The last transaction of a frame is done and left `done`: what each audio phase does next is post a packet of `len` bytes from
there. -/
structure LastTransaction (s : State) (len slots : Nat) (done : State) : Prop where
  main : exec .eMain s = .next (mainPost len slots done)
  tail : exec .eTail s = .next (tailPost len slots done)
  final : exec .eFinal s = .next (finalPost len slots done)

theorem lastTransaction_encode {s : State} {slots : Nat} {bytes : List Byte} {rest : List (Answer (List Byte))}
    (pending : s.enc.pend = .encode slots) (answer : s.opusEnc.script.encode = .ok bytes :: rest)
    (fits : bytes.length ≤ 4000) (noDiag : s.params.diagEn = false) :
    LastTransaction s bytes.length slots (encoded slots bytes rest s) := by
  have posts : ∀ post, encodeFrame post slots s = post bytes.length slots (encoded slots bytes rest s) := fun post =>
    (encodeFrame_of_le post slots answer fits).trans (if_neg (by simp [noDiag]))
  constructor
  · simp only [exec, execEMain, pending, posts]
  · simp only [exec, execETail, pending, posts]
  · simp only [exec, execEFinal, pending, posts]

theorem lastTransaction_range {s : State} {len slots : Nat} {v : BitVec 32} {rest : List (BitVec 32)}
    (pending : s.enc.pend = .range len slots) (answer : s.opusEnc.script.range = v :: rest) :
    LastTransaction s len slots (encRanged v rest s) := by
  constructor
  · simp only [exec, execEMain, pending, encodeRange_of_value answer]
  · simp only [exec, execETail, pending, encodeRange_of_value answer]
  · simp only [exec, execEFinal, pending, encodeRange_of_value answer]

section Posting
variable {t : State} {len slots : Nat} {g : BitVec 64}

theorem postAudio_of_granule {marker : BitVec 2} {v src : Nat} (nonzero : src ≠ 0) (inDomain : v * 48000 < 2 ^ 64)
    (granule : g.toNat = v * 48000 / src) :
    postAudio len marker (scale64 v src Config.refRate) t =
      { t with enc := { t.enc with pend := .write len marker g } } := by
  have scaled : scale64 v src Config.refRate = some g.toNat := (scale64_eq_some ..).mpr ⟨nonzero, inDomain, granule⟩
  rw [scaled, postAudio, postWrite, BitVec.ofNat_toNat, BitVec.setWidth_eq]
  rfl

theorem postAudio_none {marker : BitVec 2} : postAudio len marker none t = encRaised 5 0 t := rfl

theorem mainPost_of_granule (nonzero : t.enc.rate.toNat ≠ 0)
    (inDomain : (t.enc.skip.toNat + (t.enc.idx.toNat + 1) * t.enc.fs.toNat) * 48000 < 2 ^ 64)
    (granule : g.toNat = (t.enc.skip.toNat + (t.enc.idx.toNat + 1) * t.enc.fs.toNat) * 48000 / t.enc.rate.toNat) :
    mainPost len slots t = { t with enc := { t.enc with
      pend := .write len
        (if t.enc.idx.toNat * t.enc.fsz.toNat + t.enc.fsz.toNat = t.enc.total.toNat then 2 else 0) g } } :=
  postAudio_of_granule nonzero inDomain granule

theorem mainPost_outside (outside : t.enc.rate.toNat = 0 ∨
      2 ^ 64 ≤ (t.enc.skip.toNat + (t.enc.idx.toNat + 1) * t.enc.fs.toNat) * 48000) :
    mainPost len slots t = encRaised 5 0 t := by
  have unscaled : scale64 _ _ Config.refRate = none := (scale64_eq_none ..).mpr outside
  rw [mainPost, unscaled, postAudio_none]

variable {kg : Nat} (unit : t.params.unitMode = .literal ∧ kg = 1 ∨ t.params.unitMode = .perChannel ∧ kg = t.enc.ch.toNat)
include unit

/-- The granule position of E_TAIL and E_FINAL, with the unit KG that UNIT_MODE gives. -/
theorem timelineGranule_of_unit (pos : Nat) :
    timelineGranule pos t = if kg = 0 then none else scale64 (pos / kg) t.enc.rate.toNat Config.refRate := by
  have unitKg_eq : unitKg t.params.unitMode t.enc.ch.toNat = kg := unitKs_eq unit
  rw [timelineGranule, unitKg_eq]

theorem timelineGranule_outside {pos : Nat}
    (outside : kg = 0 ∨ t.enc.rate.toNat = 0 ∨ 2 ^ 64 ≤ pos / kg * 48000) : timelineGranule pos t = none := by
  rw [timelineGranule_of_unit unit, ite_eq_left_iff]
  exact fun nonzero => (scale64_eq_none ..).mpr (outside.resolve_left nonzero)

theorem finalPost_of_granule (kgPos : kg ≠ 0) (nonzero : t.enc.rate.toNat ≠ 0)
    (inDomain : t.enc.total.toNat / kg * 48000 < 2 ^ 64)
    (granule : g.toNat = t.enc.total.toNat / kg * 48000 / t.enc.rate.toNat) :
    finalPost len slots t = { t with enc := { t.enc with pend := .write len 2 g } } := by
  rw [finalPost, timelineGranule_of_unit unit, if_neg kgPos, postAudio_of_granule nonzero inDomain granule]

theorem finalPost_outside (outside : kg = 0 ∨ t.enc.rate.toNat = 0 ∨ 2 ^ 64 ≤ t.enc.total.toNat / kg * 48000) :
    finalPost len slots t = encRaised 5 0 t := by
  rw [finalPost, timelineGranule_outside unit outside, postAudio_none]

variable {pos : BitVec 64} (moved : pos.toNat = t.enc.pos.toNat + slots)
include moved

theorem tailPost_of_granule (kgPos : kg ≠ 0) (nonzero : t.enc.rate.toNat ≠ 0)
    (inDomain : pos.toNat / kg * 48000 < 2 ^ 64) (granule : g.toNat = pos.toNat / kg * 48000 / t.enc.rate.toNat) :
    tailPost len slots t = { t with enc := { t.enc with
      pos := pos, pend := .write len (if pos = t.enc.total then 2 else 0) g } } := by
  rw [tailPost, toU64_eq _ pos moved]
  have granule' := timelineGranule_of_unit (t := t.withEnc { t.enc with pos := pos }) unit pos.toNat
  rw [if_neg kgPos] at granule'
  simp only [State.withEnc_enc, granule']
  exact postAudio_of_granule nonzero inDomain granule

theorem tailPost_outside (outside : kg = 0 ∨ t.enc.rate.toNat = 0 ∨ 2 ^ 64 ≤ pos.toNat / kg * 48000) :
    tailPost len slots t = encRaised 5 0 { t with enc := { t.enc with pos := pos } } := by
  rw [tailPost, toU64_eq _ pos moved]
  have granule' := timelineGranule_outside (t := t.withEnc { t.enc with pos := pos }) unit outside
  simp only [State.withEnc_enc, granule']
  rfl

end Posting

/-- Settles O27: E_MAIN's packet from the state that the encode transaction leaves. -/
theorem mainPacketCarriesItsGranuleAndMarker : Obligations.MainPacketCarriesItsGranuleAndMarker := by
  intro s slots bytes rest g pending answer fits noDiag nonzero inDomain granule
  refine ⟨_, overwrites_writeBlock _ bytes, (lastTransaction_encode pending answer fits noDiag).main.trans ?_⟩
  exact congrArg _ (mainPost_of_granule (t := encoded slots bytes rest s) nonzero inDomain granule)

/-- Settles O28: E_TAIL's packet likewise, with POS moved on before the granule position is taken. -/
theorem tailPacketCarriesTheRunningPosition : Obligations.TailPacketCarriesTheRunningPosition := by
  intro s slots kg bytes rest pos g unit kgPos pending answer fits noDiag nonzero moved inDomain granule
  refine ⟨_, overwrites_writeBlock _ bytes, (lastTransaction_encode pending answer fits noDiag).tail.trans ?_⟩
  exact congrArg _ (tailPost_of_granule (t := encoded slots bytes rest s) unit moved kgPos nonzero inDomain granule)

/-- Settles O29: E_FINAL's packet likewise, from TOTAL. -/
theorem finalPacketCarriesTheTotal : Obligations.FinalPacketCarriesTheTotal := by
  intro s slots kg bytes rest g unit kgPos pending answer fits noDiag nonzero inDomain granule
  refine ⟨_, overwrites_writeBlock _ bytes, (lastTransaction_encode pending answer fits noDiag).final.trans ?_⟩
  exact congrArg _ (finalPost_of_granule (t := encoded slots bytes rest s) unit kgPos nonzero inDomain granule)

/-- Settles O31: with DIAG_EN the encode transaction leaves the final_range transaction pending, and that one is then the last
before the packet. -/
theorem finalRangeIsReadAfterEachFrame : Obligations.FinalRangeIsReadAfterEachFrame := by
  intro s slots
  refine ⟨fun i bytes rest audio pending answer fits diag => ?encode, ?range⟩
  case encode =>
    obtain ⟨post, asks, -⟩ := exec_audioPhase audio s
    refine ⟨_, overwrites_writeBlock _ bytes, (asks slots pending).trans (congrArg _ ?_)⟩
    exact (encodeFrame_of_le post slots answer fits).trans (if_pos diag)
  case range =>
    intro len kg v rest pos g pending answer nonzero unit kgPos ranged
    have last := lastTransaction_range pending answer
    refine ⟨fun inDomain granule => ?main, fun moved inDomain granule => ?tail, fun inDomain granule => ?final⟩
    case main => exact last.main.trans (congrArg _ (mainPost_of_granule (t := ranged) nonzero inDomain granule))
    case tail =>
      exact last.tail.trans (congrArg _ (tailPost_of_granule (t := ranged) unit moved kgPos nonzero inDomain granule))
    case final =>
      exact last.final.trans (congrArg _ (finalPost_of_granule (t := ranged) unit kgPos nonzero inDomain granule))

/-- Settles O32: on either route the packet's granule position is taken in the state that the last transaction leaves. -/
theorem granuleOutsideTheDomainAsserts : Obligations.GranuleOutsideTheDomainAsserts := by
  intro s done slots kg pos unit route
  obtain ⟨len, last, sameEnc, sameParams⟩ : ∃ len, LastTransaction s len slots done ∧
      (done.enc.rate = s.enc.rate ∧ done.enc.ch = s.enc.ch ∧ done.enc.skip = s.enc.skip ∧ done.enc.idx = s.enc.idx ∧
        done.enc.fs = s.enc.fs ∧ done.enc.pos = s.enc.pos ∧ done.enc.total = s.enc.total) ∧ done.params = s.params := by
    obtain ⟨bytes, rest, pending, answer, fits, noDiag, rfl⟩ | ⟨len, v, rest, pending, answer, rfl⟩ := route
    · exact ⟨_, lastTransaction_encode pending answer fits noDiag, ⟨rfl, rfl, rfl, rfl, rfl, rfl, rfl⟩, rfl⟩
    · exact ⟨len, lastTransaction_range pending answer, ⟨rfl, rfl, rfl, rfl, rfl, rfl, rfl⟩, rfl⟩
  obtain ⟨rate, ch, skip, idx, fs, position, total⟩ := sameEnc
  rw [← sameParams, ← ch] at unit
  rw [← rate, ← skip, ← idx, ← fs, ← position, ← total]
  exact ⟨fun outside => last.main.trans (congrArg _ (mainPost_outside outside)),
    fun moved outside => last.tail.trans (congrArg _ (tailPost_outside unit moved outside)),
    fun outside => last.final.trans (congrArg _ (finalPost_outside unit outside))⟩

/-! ### After the packet is written -/

section AfterWrite
variable {s : State}

theorem afterWrite_of_eMain (main : s.enc.phase = 7) :
    afterWrite s = { s with enc := { s.enc with idx := toU64 (s.enc.idx.toNat + 1), pend := .loop } } := by
  rw [afterWrite, main]
  rfl

theorem afterWrite_of_eFinal (final : s.enc.phase = 9) :
    afterWrite s = { s with
      enc := { s.enc with pos := s.enc.total, phase := 10, pend := .start }, opusEnc := { s.opusEnc with inst := none } } := by
  rw [afterWrite, final]
  rfl

/-- In every other phase ENC goes back to the phase's start. -/
theorem afterWrite_of_other (other : s.enc.phase ∉ [5, 6, 7, 9]) :
    afterWrite s = { s with enc := { s.enc with pend := .start } } := by
  simp only [List.mem_cons, List.not_mem_nil, or_false, not_or, ← BitVec.toNat_inj] at other
  obtain ⟨h5, h6, h7, h9⟩ := other
  unfold afterWrite
  split
  · exact absurd ‹_› h5
  · exact absurd ‹_› h6
  · exact absurd ‹_› h7
  · exact absurd ‹_› h9
  · rfl

theorem emit_of_err {marker : BitVec 2} {reason : BitVec 32} {rest : List (Answer Unit)}
    (answer : s.oggWr.script = .err reason :: rest) :
    emit marker s = encRaised 4 reason { s with
      oggWr := ⟨rest, s.oggWr.sent ++ [postedPacket marker s], s.oggWr.accepted⟩ } := by
  simpa [answer] using emit_cases marker s

theorem postedPacket_of_write {len : Nat} {m : BitVec 2} {gran : BitVec 64} (pending : s.enc.pend = .write len m gran)
    (marker : BitVec 2) :
    postedPacket marker s = ⟨bytesAt .pktBuf s.enc.pktBuf 0 len, s.enc.serial, marker, gran⟩ := by
  simp only [postedPacket, writeDesc, pending]

end AfterWrite

/-- The end markers as operations are `emit` with the marker (30_encoding.md R72). -/
theorem exec_marker {i : Instr} {m : BitVec 2}
    (row : (i, m) ∈ [(Instr.normal, (0 : BitVec 2)), (.endPage, 1), (.endStream, 2)]) (s : State) :
    exec i s = .next (emit m s) := by
  simp only [List.mem_cons, Prod.mk.injEq, List.not_mem_nil, or_false] at row
  obtain ⟨rfl, rfl⟩ | ⟨rfl, rfl⟩ | ⟨rfl, rfl⟩ := row <;> rfl

theorem toU64_succ {v : BitVec 64} (fits : v.toNat + 1 < 18446744073709551616) : toU64 (v.toNat + 1) = v + 1 := by
  refine toU64_eq _ _ ?_
  rw [BitVec.toNat_add]
  exact Nat.mod_eq_of_lt fits

/-- ENC and its writer once OGGWR has accepted a packet, before the phase goes on. -/
def packetAccepted (m : BitVec 2) (pkt : Packet) (rest : List (Answer Unit)) (s : State) : State :=
  { s with
    enc := { s.enc with eos := if m = 2 then true else s.enc.eos }
    oggWr := ⟨rest, s.oggWr.sent ++ [pkt], s.oggWr.accepted ++ [pkt]⟩ }

/-- Settles O33: the packet handed over is the posted one, and the phase picks what follows it. -/
theorem writePacketEmitsAndGoesOn : Obligations.WritePacketEmitsAndGoesOn := by
  intro s len gran m i rest row pending pkt eos
  rw [exec_marker row]
  have posted : postedPacket m s = pkt := postedPacket_of_write pending m
  refine ⟨?accepted, fun reason answer => ?failed⟩
  case failed => rw [emit_of_err answer, posted]
  case accepted =>
    intro answer wr
    have emitted : emit m s = afterWrite (packetAccepted m pkt rest s) := posted ▸ emit_of_ok answer
    rw [emitted]
    refine ⟨fun header => ?header, fun main fits => ?main, fun tail => ?tail, fun final => ?final⟩
    case header =>
      obtain head | tags := header
      · rw [afterWrite_of_eHead (s := packetAccepted m pkt rest s) head, head]
        rfl
      · rw [afterWrite_of_eTags (s := packetAccepted m pkt rest s) tags, tags]
        rfl
    case main =>
      rw [afterWrite_of_eMain (s := packetAccepted m pkt rest s) main, ← toU64_succ fits]
      rfl
    case tail =>
      have other : s.enc.phase ∉ [5, 6, 7, 9] := by rw [tail]; decide
      rw [afterWrite_of_other (s := packetAccepted m pkt rest s) other]
      rfl
    case final =>
      rw [afterWrite_of_eFinal (s := packetAccepted m pkt rest s) final]
      rfl

end Sys2Proof.Proofs
end

section
/-! PROOF. DEC's frame loop: the read, one packet with and without the diagnostic, and what a whole stream of frames leaves in
OUTLEN (42_decode.md R137 to R142; 60_exceptions.md R216). -/

namespace Sys2Proof.Proofs

open Sys2Proof.Machine

/-- Settles O40: the read at OGGRD by its answer, with completion as what an exhausted container asks for. -/
theorem frameLoopReadsUntilExhausted : Obligations.FrameLoopReadsUntilExhausted := by
  intro s rest start rd
  rw [exec_dFrame_of_start start]
  refine ⟨fun bytes gran last answer fits => ?packet, fun answer => ?exhausted, fun reason answer => ?err⟩
  case packet =>
    obtain ⟨buf, len, holds, length, read⟩ := readNextPacket_of_packet .packet completeDec answer fits
    exact ⟨buf, len, holds, length, congrArg _ read⟩
  case exhausted =>
    obtain ⟨outCh, value, completed⟩ := completeDec_eq { s with oggRd := rd }
    exact ⟨outCh, value, congrArg _ ((readNextPacket_of_exhausted .packet completeDec answer).trans completed)⟩
  case err => rw [readNextPacket_of_err .packet completeDec answer]

/-! ### One packet -/

/-- DEC after OPUSDEC has answered the decode transaction, before anything is made of the answer. -/
def decodeAsked (rest : List (Answer Decoding)) (s : State) : State :=
  { s with opusDec := { s.opusDec with
    script := { s.opusDec.script with decode := rest }, sent := s.opusDec.sent ++ [.decode (pktBytes s) 5760] } }

/-- DEC with a decoded frame and its count stored. -/
def decoded (d : Decoding) (rest : List (Answer Decoding)) (s : State) : State :=
  { decodeAsked rest s with dec := { s.dec with
    nDec := BitVec.ofNat 16 d.n
    scratch := Memory.writeBlock s.dec.scratch 0 (d.samples.take (d.n * s.dec.ch.toNat)) } }

/-- DEC with the final range of its frame in DEC.DIAG. -/
def decRanged (v : BitVec 32) (rest : List (BitVec 32)) (s : State) : State :=
  { s with
    dec := { s.dec with diag := v, diagV := true }
    opusDec := { s.opusDec with
      script := { s.opusDec.script with range := rest }, sent := s.opusDec.sent ++ [.finalRange] } }

section Packet
variable {s : State} {rest : List (Answer Decoding)} {d : Decoding}

theorem decodePacket_of_err {reason : BitVec 32} (answer : s.opusDec.script.decode = .err reason :: rest) :
    decodePacket s = decRaised 3 reason (decodeAsked rest s) := by
  rw [decodePacket, answer]
  rfl

theorem decodePacket_of_lt (answer : s.opusDec.script.decode = .ok d :: rest) (long : 5760 < d.n) :
    decodePacket s = decRaised 5 0 (decodeAsked rest s) := by
  rw [decodePacket, answer]
  exact if_pos long

theorem decodePacket_of_le (answer : s.opusDec.script.decode = .ok d :: rest) (fits : d.n ≤ 5760) :
    decodePacket s =
      if s.params.diagEn then decPend .range (decoded d rest s) else frameEnd (decoded d rest s) := by
  rw [decodePacket, answer]
  exact if_neg (Nat.not_lt.mpr fits)

theorem nDec_decoded (fits : d.n ≤ 5760) : (decoded d rest s).dec.nDec.toNat = d.n :=
  (BitVec.toNat_ofNat ..).trans (Nat.mod_eq_of_lt (Nat.lt_of_le_of_lt fits (by decide)))

theorem decodeRange_of_value {v : BitVec 32} {rest : List (BitVec 32)} (answer : s.opusDec.script.range = v :: rest) :
    decodeRange s = frameEnd (decRanged v rest s) := by
  rw [decodeRange, answer]
  rfl

theorem frameEnd_of_le (outside : 2 ^ 64 ≤ s.dec.pktGran.toNat * s.dec.tRate.toNat) : frameEnd s = decRaised 5 0 s := by
  rw [frameEnd, (scale64_eq_none _ Config.refRate _).mpr (.inr outside)]
  rfl

theorem frameEnd_of_lt (inDomain : s.dec.pktGran.toNat * s.dec.tRate.toNat < 2 ^ 64) :
    frameEnd s =
      frameOut s.dec.nDec.toNat (s.dec.pktGran.toNat * s.dec.tRate.toNat / 48000) s.dec.pktLast s := by
  rw [frameEnd, (scale64_eq_some _ Config.refRate _ _).mpr ⟨by decide, inDomain, rfl⟩]
  rfl

end Packet

/-- Settles O41: without the diagnostic the declared end is taken in the state that the decode transaction leaves. -/
theorem decodedFrameIsTrimmedAndAppended : Obligations.DecodedFrameIsTrimmedAndAppended := by
  intro s rest packet noDiag asked
  rw [exec_dFrame_of_packet packet]
  refine ⟨fun reason answer => congrArg _ (decodePacket_of_err answer),
    fun d answer long => congrArg _ (decodePacket_of_lt answer long), fun d answer fits => ?stored⟩
  case stored =>
    have stored : decodePacket s = frameEnd (decoded d rest s) :=
      (decodePacket_of_le answer fits).trans (if_neg (by simp [noDiag]))
    have count := nDec_decoded (s := s) (rest := rest) fits
    refine ⟨(decoded d rest s).dec.nDec, _, count, overwrites_writeBlock s.dec.scratch _, fun outside => ?_,
      fun inDomain => ?_⟩
    · exact congrArg _ (stored.trans (frameEnd_of_le outside))
    · rw [stored, frameEnd_of_lt (s := decoded d rest s) inDomain, count]
      rfl

/-- Settles O42: with the diagnostic the declared end is taken one transaction later. -/
theorem finalRangeIsReadAfterEachDecodedFrame : Obligations.FinalRangeIsReadAfterEachDecodedFrame := by
  intro s
  refine ⟨?packet, ?range⟩
  case packet =>
    intro rest packet diag asked
    rw [exec_dFrame_of_packet packet]
    refine ⟨fun reason answer => congrArg _ (decodePacket_of_err answer),
      fun d answer long => congrArg _ (decodePacket_of_lt answer long), fun d answer fits => ?_⟩
    exact ⟨_, _, nDec_decoded (s := s) (rest := rest) fits, overwrites_writeBlock s.dec.scratch _,
      congrArg _ ((decodePacket_of_le answer fits).trans (if_pos diag))⟩
  case range =>
    intro v rest range answer ranged
    rw [exec_dFrame_of_range range, decodeRange_of_value answer]
    exact ⟨fun outside => congrArg _ (frameEnd_of_le outside), fun inDomain => congrArg _ (frameEnd_of_lt inDomain)⟩

/-! ### Whole streams -/

/-- DEC's counters once `counted` samples have been counted and `kept` of them kept, of a stream with pre-skip `skip` and `nch`
channels. -/
structure Played (skip : Nat) (nch : BitVec 8) (counted kept : Nat) (d : Dec) : Prop where
  ch : d.ch = nch
  total : d.totalDec.toNat = counted
  rem : d.skipRem.toNat = skip - kept
  len : d.outLen.toNat = (kept - skip) * nch.toNat

/-- One frame of which TAILTRIM keeps `keep`: whatever of the pre-skip is left is taken off first. -/
theorem Played.frameOut {skip kept n endPos keep total : Nat} {nch : BitVec 8} {last : Bool} {s : State}
    (before : Played skip nch total kept s.dec) (trim : tailTrim n (total + n) endPos last = some keep)
    (totalFits : total + n < 2 ^ 64) (lenFits : (kept + keep) * nch.toNat < 2 ^ 64) :
    Played skip nch (total + n) (kept + keep) (Machine.frameOut n endPos last s).dec := by
  obtain ⟨rfl, rfl, rem, len⟩ := before
  have count := toU64_toNat _ totalFits
  rw [← count] at trim
  rw [frameOut_of_tailTrim_some count trim]
  have newLen : s.dec.outLen.toNat + (keep - min keep s.dec.skipRem.toNat) * s.dec.ch.toNat =
      (kept + keep - skip) * s.dec.ch.toNat := by
    rw [len, ← Nat.add_mul]
    congr 1
    omega
  have newLenFits : (kept + keep - skip) * s.dec.ch.toNat < 2 ^ 64 :=
    Nat.lt_of_le_of_lt (Nat.mul_le_mul_right _ (Nat.sub_le ..)) lenFits
  have bound := s.dec.skipRem.isLt
  refine ⟨rfl, count, ?rem, ?len⟩
  case rem =>
    refine (BitVec.toNat_ofNat ..).trans ((Nat.mod_eq_of_lt ?_).trans ?_) <;> omega
  case len =>
    simp only [newLen]
    exact toU64_toNat _ newLenFits

/-- Frames that are not last are kept whole. -/
theorem Played.foldl_frameOut {skip : Nat} {nch : BitVec 8} (frames : List (Nat × Nat)) :
    ∀ {total : Nat} {s : State}, Played skip nch total total s.dec →
      total + (frames.map Prod.fst).sum < 2 ^ 64 → (total + (frames.map Prod.fst).sum) * nch.toNat < 2 ^ 64 →
      Played skip nch (total + (frames.map Prod.fst).sum) (total + (frames.map Prod.fst).sum)
        (frames.foldl (fun t f => Machine.frameOut f.1 f.2 false t) s).dec := by
  induction frames with
  | nil => exact fun before _ _ => before
  | cons f frames ih =>
    intro total s before totalFits lenFits
    rw [List.map_cons, List.sum_cons, ← Nat.add_assoc] at totalFits lenFits ⊢
    have oneLen : (total + f.1) * nch.toNat < 2 ^ 64 :=
      Nat.lt_of_le_of_lt (Nat.mul_le_mul_right _ (Nat.le_add_right ..)) lenFits
    exact ih (before.frameOut (tailTrim_eq_self (.inl rfl)) (by omega) oneLen) totalFits lenFits

/-- A last frame that ends at or after its declared end is kept up to that end. -/
theorem tailTrim_last {total n endPos : Nat} (after : total ≤ endPos) (within : endPos ≤ total + n) :
    tailTrim n (total + n) endPos true = some (endPos - total) := by
  obtain atEnd | before := Nat.eq_or_lt_of_le within
  · rw [tailTrim_eq_self (.inr atEnd.ge)]
    congr 1
    omega
  · rw [tailTrim_eq_sub before (by omega)]
    congr 1
    omega

/-- Settles O45: the counters follow the frames one by one, and the last frame's trim replaces the total by the declared end. -/
theorem outputLengthIsDeclaredLengthLessPreSkip : Obligations.OutputLengthIsDeclaredLengthLessPreSkip := by
  intro s frames empty uncounted played total totalFits lenFits
  have start : Played s.dec.skipRem.toNat s.dec.ch 0 0 s.dec :=
    ⟨rfl, by rw [uncounted]; rfl, rfl, by rw [empty, Nat.zero_sub, Nat.zero_mul]; rfl⟩
  have all : Played s.dec.skipRem.toNat s.dec.ch total total played.dec := by
    have folded := start.foldl_frameOut frames
    rw [Nat.zero_add] at folded
    exact folded totalFits lenFits
  refine ⟨all.total, all.ch, all.len, fun n endPos after within countFits endFits => ?last⟩
  case last =>
    have kept : total + (endPos - total) = endPos := by omega
    have final := all.frameOut (tailTrim_last after within) countFits (kept.symm ▸ endFits)
    rw [kept] at final
    exact final.len

end Sys2Proof.Proofs
end

section
/-! PROOF. The host's operations: what each does, and what it leaves alone of a pipeline that is BUSY (10_state.md R16;
30_encoding.md R76; 44_sequencing_and_access.md R182). -/

namespace Sys2Proof.Proofs

open Sys2Proof.Machine

/-! ### Each operation's next state -/

section HostOps
variable {s : State}

theorem hostOp_setN_of_free (v : BitVec 64) (free : status .enc s ≠ .busy) :
    hostOp (.setN v) s = .next { s with enc := { s.enc with n := v } } := congrArg Host.Outcome.next (if_neg free)

theorem hostOp_setN_of_busy (v : BitVec 64) (busy : status .enc s = .busy) : hostOp (.setN v) s = .next s :=
  congrArg Host.Outcome.next (if_pos busy)

theorem hostOp_loadPcm_of_free (base : Nat) (elems : List Sample) (free : status .enc s ≠ .busy) :
    hostOp (.loadPcm base elems) s = .next { s with pcmIn := Memory.writeBlock s.pcmIn base elems } := by
  rw [hostOp, loadPcm_eq, if_neg free]

theorem hostOp_loadPcm_of_busy (base : Nat) (elems : List Sample) (busy : status .enc s = .busy) :
    hostOp (.loadPcm base elems) s = .next { s with
      pcmIn := Memory.writeBlock s.pcmIn base elems
      enc := { s.enc with raced := List.range' base elems.length ++ s.enc.raced }
      freeCount := s.freeCount + 1 } := by
  rw [hostOp, loadPcm_eq, if_pos busy]

theorem hostOp_readPcmOut_of_some {i : Nat} {v : Sample} (held : Memory.read s.pcmOut i = some v) :
    hostOp (.readPcmOut i) s = .next { s with readOut := v.setWidth 64 } := by
  simpa [hostOp, held] using readPcmOut_cases i s

theorem hostOp_readPcmOut_of_none {i : Nat} (absent : Memory.read s.pcmOut i = none) :
    hostOp (.readPcmOut i) s = .fault (.noSuchOutput i) := by
  simpa [hostOp, absent] using readPcmOut_cases i s

theorem hostOp_wait_of_done {p : Pipe} (done : doneOut p s = true) : hostOp (.wait p) s = .next s :=
  congrArg Host.Outcome.next (if_pos done)

theorem hostOp_wait_of_not_done {p : Pipe} (notDone : doneOut p s = false) :
    hostOp (.wait p) s = .next { s with inputs := .wait p :: s.inputs } :=
  congrArg Host.Outcome.next (if_neg (Bool.eq_false_iff.mp notDone))

theorem toNat_bit64 (b : Bool) : (bit64 b).toNat = b.toNat := by
  cases b <;> rfl

/-- The host's view of a register is its number, widened. -/
theorem toNat_readReg {r : HostReg} {v : Nat}
    (register : (r, v) ∈ [(HostReg.status .enc, (status .enc s).code.toNat), (.status .dec, (status .dec s).code.toNat),
        (.err .enc, s.enc.err.toNat), (.err .dec, s.dec.err.toNat),
        (.errInfo .enc, s.enc.errInfo.toNat), (.errInfo .dec, s.dec.errInfo.toNat),
        (.diag .enc, s.enc.diag.toNat), (.diag .dec, s.dec.diag.toNat),
        (.diagV .enc, s.enc.diagV.toNat), (.diagV .dec, s.dec.diagV.toNat),
        (.doneOut .enc, (doneOut .enc s).toNat), (.doneOut .dec, (doneOut .dec s).toNat),
        (.encN, s.enc.n.toNat), (.encEos, s.enc.eos.toNat),
        (.decOutLen, s.dec.outLen.toNat), (.decOutCh, s.dec.outCh.toNat)]) : (readReg s r).toNat = v := by
  have widened : ∀ {w : Nat} (x : BitVec w), w ≤ 64 → (x.setWidth 64).toNat = x.toNat := fun _ narrow =>
    BitVec.toNat_setWidth_of_le narrow
  simp only [List.mem_cons, Prod.mk.injEq, List.not_mem_nil, or_false] at register
  rcases register with ⟨rfl, rfl⟩ | ⟨rfl, rfl⟩ | ⟨rfl, rfl⟩ | ⟨rfl, rfl⟩ | ⟨rfl, rfl⟩ | ⟨rfl, rfl⟩ | ⟨rfl, rfl⟩ | ⟨rfl, rfl⟩ |
    ⟨rfl, rfl⟩ | ⟨rfl, rfl⟩ | ⟨rfl, rfl⟩ | ⟨rfl, rfl⟩ | ⟨rfl, rfl⟩ | ⟨rfl, rfl⟩ | ⟨rfl, rfl⟩ | ⟨rfl, rfl⟩
  all_goals simp only [readReg, widened, toNat_bit64, Nat.reduceLeDiff]

end HostOps

/-- Settles O53: operation by operation. -/
theorem hostOperationsDoWhatTheyName : Obligations.HostOperationsDoWhatTheyName := by
  intro s
  refine ⟨fun base elems => ⟨_, fun a => Memory.read_writeBlock s.pcmIn base a elems, hostOp_loadPcm_of_free base elems,
      fun busy => ⟨_, fun a => ?raced, hostOp_loadPcm_of_busy base elems busy⟩⟩,
    fun _ => rfl, fun _ => rfl, fun _ => rfl, fun _ => rfl, fun _ => rfl,
    fun r v register => ⟨readReg s r, toNat_readReg register, rfl⟩,
    fun i v held => ⟨v.setWidth 64, BitVec.toNat_setWidth_of_le (by decide), hostOp_readPcmOut_of_some held⟩,
    fun i absent => hostOp_readPcmOut_of_none absent, fun p => hostOp_wait_of_done, fun p => hostOp_wait_of_not_done⟩
  case raced => rw [List.mem_append, List.mem_range'_1]

/-- What every host operation but RESET leaves alone: DEC, what either codec port holds, PCM_OUT and the parameters, and all of
ENC but N, while ENC is not BUSY, and the model's own `raced`. PCM_IN stays in canonical form. -/
structure HostFrame (s t : State) : Prop where
  enc : ∃ n raced, (status .enc s = .busy → n = s.enc.n) ∧ t.enc = { s.enc with n := n, raced := raced }
  pcmIn : Memory.wf s.pcmIn = true → Memory.wf t.pcmIn = true
  dec : t.dec = s.dec
  encInst : t.opusEnc.inst = s.opusEnc.inst
  decInst : t.opusDec.inst = s.opusDec.inst
  pcmOut : t.pcmOut = s.pcmOut
  params : t.params = s.params

theorem hostOp_frame {op : HostOp} {s t : State} (notReset : op ≠ .reset) (ran : hostOp op s = .next t) : HostFrame s t := by
  cases op with
  | reset => exact absurd rfl notReset
  | setN v =>
    by_cases busy : status .enc s = .busy
    · cases (hostOp_setN_of_busy v busy).symm.trans ran
      exact ⟨⟨_, _, fun _ => rfl, rfl⟩, id, rfl, rfl, rfl, rfl, rfl⟩
    · cases (hostOp_setN_of_free v busy).symm.trans ran
      exact ⟨⟨v, _, fun isBusy => absurd isBusy busy, rfl⟩, id, rfl, rfl, rfl, rfl, rfl⟩
  | loadPcm base elems =>
    have written := Memory.wf_writeBlock s.pcmIn base elems
    by_cases busy : status .enc s = .busy
    · cases (hostOp_loadPcm_of_busy base elems busy).symm.trans ran
      exact ⟨⟨_, _, fun _ => rfl, rfl⟩, written, rfl, rfl, rfl, rfl, rfl⟩
    · cases (hostOp_loadPcm_of_free base elems busy).symm.trans ran
      exact ⟨⟨_, _, fun _ => rfl, rfl⟩, written, rfl, rfl, rfl, rfl, rfl⟩
  | readPcmOut i =>
    cases held : Memory.read s.pcmOut i with
    | none => cases (hostOp_readPcmOut_of_none held).symm.trans ran
    | some v =>
      cases (hostOp_readPcmOut_of_some held).symm.trans ran
      exact ⟨⟨_, _, fun _ => rfl, rfl⟩, id, rfl, rfl, rfl, rfl, rfl⟩
  | wait p =>
    cases done : doneOut p s with
    | true =>
      cases (hostOp_wait_of_done done).symm.trans ran
      exact ⟨⟨_, _, fun _ => rfl, rfl⟩, id, rfl, rfl, rfl, rfl, rfl⟩
    | false =>
      cases (hostOp_wait_of_not_done done).symm.trans ran
      exact ⟨⟨_, _, fun _ => rfl, rfl⟩, id, rfl, rfl, rfl, rfl, rfl⟩
  | _ =>
    cases ran
    exact ⟨⟨_, _, fun _ => rfl, rfl⟩, id, rfl, rfl, rfl, rfl, rfl⟩

/-- Settles O52: of what HostFrame lets change, a BUSY ENC has only `raced`. -/
theorem hostKeepsTheRegistersOfABusyPipeline : Obligations.HostKeepsTheRegistersOfABusyPipeline := by
  refine ⟨fun s v => ⟨hostOp_setN_of_free v, hostOp_setN_of_busy v⟩, fun op s t notReset ran => ?_⟩
  have frame := hostOp_frame notReset ran
  obtain ⟨n, raced, keepsN, enc⟩ := frame.enc
  exact ⟨fun busy => ⟨raced, by rw [enc, keepsN busy]⟩, frame.dec, frame.encInst, frame.decInst, frame.pcmOut, frame.params⟩

end Sys2Proof.Proofs
end

section
/-! PROOF. The two pipelines are independent (60_exceptions.md R209, R215; 20_memory.md R48 (d)). What an instruction of a pipeline
does depends on that pipeline's part of the state, on the parameters and on PCM_IN only, and changes that part only; sharing no
state and commuting both follow. -/

namespace Sys2Proof.Proofs

open Sys2Proof.Machine

/-! ### Every instruction completes -/

/-- Settles O49: only E_TAGS has a branch that gives no next state. -/
theorem everyInstructionCompletes : Obligations.EveryInstructionCompletes := by
  refine ⟨fun i s shortVendor => ?completes, fun s long => (execETags_eq s).trans (if_pos long)⟩
  cases i with
  | encode ch rate =>
    simp only [exec, execEncode]
    split_ifs <;> exact ⟨_, rfl⟩
  | decode rate =>
    simp only [exec, execDecode]
    split_ifs <;> exact ⟨_, rfl⟩
  | illegalCommand p =>
    simp only [exec, execIllegalCommand]
    split_ifs <;> exact ⟨_, rfl⟩
  | eTags => exact ⟨_, exec_eTags_of_le (shortVendor rfl)⟩
  | _ => exact ⟨_, rfl⟩

/-! ### A pipeline's part of the state -/

/-- The state `x` with one pipeline's part of `s`: its registers, its ports, and what besides only it writes (ENC the supply of
RAND32 and the count of free values, DEC its output). -/
def withPartOf : Pipe → State → State → State
  | .enc, x, s =>
    { x with enc := s.enc, opusEnc := s.opusEnc, oggWr := s.oggWr, randIn := s.randIn, freeCount := s.freeCount }
  | .dec, x, s => { x with dec := s.dec, opusDec := s.opusDec, oggRd := s.oggRd, pcmOut := s.pcmOut }

section PartFields
variable (x s : State)
@[simp] theorem withPartOf_enc_enc : (withPartOf .enc x s).enc = s.enc := rfl
@[simp] theorem withPartOf_enc_opusEnc : (withPartOf .enc x s).opusEnc = s.opusEnc := rfl
@[simp] theorem withPartOf_enc_oggWr : (withPartOf .enc x s).oggWr = s.oggWr := rfl
@[simp] theorem withPartOf_enc_randIn : (withPartOf .enc x s).randIn = s.randIn := rfl
@[simp] theorem withPartOf_enc_freeCount : (withPartOf .enc x s).freeCount = s.freeCount := rfl
@[simp] theorem withPartOf_dec_dec : (withPartOf .dec x s).dec = s.dec := rfl
@[simp] theorem withPartOf_dec_opusDec : (withPartOf .dec x s).opusDec = s.opusDec := rfl
@[simp] theorem withPartOf_dec_oggRd : (withPartOf .dec x s).oggRd = s.oggRd := rfl
@[simp] theorem withPartOf_dec_pcmOut : (withPartOf .dec x s).pcmOut = s.pcmOut := rfl
@[simp] theorem withPartOf_params (p : Pipe) : (withPartOf p x s).params = x.params := by cases p <;> rfl
@[simp] theorem withPartOf_pcmIn (p : Pipe) : (withPartOf p x s).pcmIn = x.pcmIn := by cases p <;> rfl
@[simp] theorem withPartOf_self (p : Pipe) : withPartOf p s s = s := by cases p <;> rfl
end PartFields

/-- An operation of a pipeline acts on that pipeline's part, whatever the rest of the state is, as long as the parameters and
PCM_IN are the same. -/
def Local (p : Pipe) (f : State → State) : Prop :=
  ∀ x s : State, x.params = s.params → x.pcmIn = s.pcmIn → f (withPartOf p x s) = withPartOf p x (f s)

/-- A local operation writes neither the parameters nor PCM_IN. -/
theorem Local.shared {p : Pipe} {f : State → State} (loc : Local p f) (s : State) :
    (f s).params = s.params ∧ (f s).pcmIn = s.pcmIn := by
  have self := loc s s rfl rfl
  rw [withPartOf_self] at self
  rw [self]
  exact ⟨withPartOf_params .., withPartOf_pcmIn ..⟩

theorem Local.ite {p : Pipe} {c : State → Prop} [DecidablePred c] {f g : State → State}
    (agrees : ∀ x s, c (withPartOf p x s) ↔ c s) (whenTrue : Local p f)
    (whenFalse : Local p g) : Local p (fun s => if c s then f s else g s) := by
  intro x s params pcmIn
  by_cases holds : c s
  · simp only [if_pos holds, if_pos ((agrees x s).mpr holds)]
    exact whenTrue x s params pcmIn
  · simp only [if_neg holds, if_neg (mt (agrees x s).mp holds)]
    exact whenFalse x s params pcmIn

/-! ### The operations of ENC -/

section EncOperations

theorem local_raise (p : Pipe) (e : ErrKind) (info : BitVec 32) : Local p (raise p e info) := by
  cases p <;> exact fun _ _ _ _ => rfl

theorem local_completeEnc : Local .enc completeEnc := fun _ _ _ _ => rfl

theorem local_constructEnc : Local .enc constructEnc := by
  intro x s _ _
  simp only [constructEnc, withPartOf_enc_opusEnc]
  rcases s.opusEnc.script.construct with _ | ⟨_ | _, _⟩ <;> rfl

theorem local_setBitrate : Local .enc setBitrate := by
  intro x s _ _
  simp only [setBitrate, withPartOf_enc_opusEnc]
  rcases s.opusEnc.script.bitrate with _ | ⟨_ | _, _⟩ <;> rfl

theorem local_lookRegs (samples : Nat) : Local .enc (lookRegs samples) := by
  intro x s params _
  simp only [lookRegs, withPartOf_params, params, State.withEnc_enc, withPartOf_enc_enc]
  cases scale16 samples s.enc.rate.toNat Config.refRate <;> rfl

theorem window_withPartOf {x s : State} (pcmIn : x.pcmIn = s.pcmIn) (p : Nat) :
    window (withPartOf .enc x s) p = window s p := by
  simp only [window, inputAt, withPartOf_enc_enc, withPartOf_enc_freeCount, withPartOf_pcmIn, pcmIn]

theorem fillFrom_withPartOf {x s : State} (pcmIn : x.pcmIn = s.pcmIn) (a n : Nat) :
    ∀ (j : Nat) (m : Memory 16), fillFrom (withPartOf .enc x s) a j m n = fillFrom s a j m n := by
  induction n with
  | zero => exact fun _ _ => rfl
  | succ n ih =>
    intro j m
    simp only [fillFrom, window_withPartOf pcmIn, ih]

theorem local_frameFill (a slots : Nat) : Local .enc (frameFill a slots) := by
  intro x s _ pcmIn
  simp only [frameFill, fillFrom_withPartOf pcmIn, withPartOf_enc_enc]
  split_ifs
  · rfl
  · cases fillFrom s a 0 s.enc.frameBuf slots <;> rfl

theorem local_encodeFrame {post : Nat → Nat → State → State} (loc : ∀ len slots, Local .enc (post len slots)) (slots : Nat) :
    Local .enc (encodeFrame post slots) := by
  intro x s params pcmIn
  cases answer : s.opusEnc.script.encode with
  | nil => rw [encodeFrame_of_unanswered answer, encodeFrame_of_unanswered (s := withPartOf .enc x s) answer]
  | cons a rest =>
    cases a with
    | err reason =>
      rw [encodeFrame_of_err post slots answer, encodeFrame_of_err (s := withPartOf .enc x s) post slots answer]
      rfl
    | ok bytes =>
      rcases Nat.lt_or_ge 4000 bytes.length with long | fits
      · rw [encodeFrame_of_lt post slots answer long,
          encodeFrame_of_lt (s := withPartOf .enc x s) post slots answer long]
        rfl
      · rw [encodeFrame_of_le post slots answer fits,
          encodeFrame_of_le (s := withPartOf .enc x s) post slots answer fits, withPartOf_params, params]
        split_ifs
        · rfl
        · exact loc bytes.length slots x (encoded slots bytes rest s) params pcmIn

theorem local_encodeRange {post : Nat → Nat → State → State} (loc : ∀ len slots, Local .enc (post len slots))
    (len slots : Nat) : Local .enc (encodeRange post len slots) := by
  intro x s params pcmIn
  cases answer : s.opusEnc.script.range with
  | nil => rw [encodeRange_of_unanswered answer, encodeRange_of_unanswered (s := withPartOf .enc x s) answer]
  | cons v rest =>
    rw [encodeRange_of_value answer, encodeRange_of_value (s := withPartOf .enc x s) answer]
    exact loc len slots x (encRanged v rest s) params pcmIn

theorem local_postAudio (len : Nat) (marker : BitVec 2) (gran : Option Nat) : Local .enc (postAudio len marker gran) := by
  intro x s _ _
  cases gran <;> rfl

theorem timelineGranule_withPartOf {x s : State} (params : x.params = s.params) (pos : Nat) :
    timelineGranule pos (withPartOf .enc x s) = timelineGranule pos s := by
  simp only [timelineGranule, withPartOf_params, params, withPartOf_enc_enc]

theorem local_mainPost (len slots : Nat) : Local .enc (mainPost len slots) :=
  fun x s => local_postAudio len _ _ x s

theorem local_finalPost (len slots : Nat) : Local .enc (finalPost len slots) := by
  intro x s params pcmIn
  simp only [finalPost, timelineGranule_withPartOf params, withPartOf_enc_enc]
  exact local_postAudio len _ _ x s params pcmIn

theorem local_tailPost (len slots : Nat) : Local .enc (tailPost len slots) := by
  intro x s params pcmIn
  let moved : State := s.withEnc { s.enc with pos := toU64 (s.enc.pos.toNat + slots) }
  have posts := local_postAudio len (if moved.enc.pos = moved.enc.total then Marker.endStream else Marker.normal)
    (timelineGranule moved.enc.pos.toNat moved) x moved params pcmIn
  rw [← timelineGranule_withPartOf (s := moved) params] at posts
  exact posts.trans (by rw [timelineGranule_withPartOf (s := moved) params]; rfl)

theorem local_mainStart : Local .enc mainStart :=
  Local.ite (fun _ _ => Iff.rfl) (local_raise .enc .assertFail 0) fun _ _ _ _ => rfl

theorem local_mainLoop : Local .enc mainLoop :=
  Local.ite (fun _ _ => Iff.rfl) (fun x s => local_frameFill _ _ x s) fun _ _ _ _ => rfl

theorem local_tailLoop : Local .enc tailLoop := by
  intro x s params pcmIn
  simp only [tailLoop, withPartOf_enc_enc]
  cases tailPick s.enc.rate.toNat s.enc.ch.toNat s.enc.pos.toNat s.enc.total.toNat
  · rfl
  · exact local_frameFill _ _ x s params pcmIn

theorem local_finalStart : Local .enc finalStart :=
  Local.ite (fun _ _ => Iff.rfl) (fun x s => local_frameFill _ _ x s) local_completeEnc

theorem local_afterWrite : Local .enc afterWrite := by
  intro x s _ _
  by_cases listed : s.enc.phase ∈ [5, 6, 7, 9]
  · simp only [List.mem_cons, List.not_mem_nil, or_false] at listed
    obtain head | tags | main | final := listed
    · rw [afterWrite_of_eHead head, afterWrite_of_eHead (s := withPartOf .enc x s) head]
      rfl
    · rw [afterWrite_of_eTags tags, afterWrite_of_eTags (s := withPartOf .enc x s) tags]
      rfl
    · rw [afterWrite_of_eMain main, afterWrite_of_eMain (s := withPartOf .enc x s) main]
      rfl
    · rw [afterWrite_of_eFinal final, afterWrite_of_eFinal (s := withPartOf .enc x s) final]
      rfl
  · rw [afterWrite_of_other listed, afterWrite_of_other (s := withPartOf .enc x s) listed]
    rfl

theorem local_emit (marker : BitVec 2) : Local .enc (emit marker) := by
  intro x s params pcmIn
  cases answer : s.oggWr.script with
  | nil => rw [emit_of_unanswered answer, emit_of_unanswered (s := withPartOf .enc x s) answer]
  | cons a rest =>
    cases a with
    | err reason =>
      rw [emit_of_err answer, emit_of_err (s := withPartOf .enc x s) answer]
      rfl
    | ok _ =>
      rw [emit_of_ok answer, emit_of_ok (s := withPartOf .enc x s) answer]
      exact local_afterWrite x (packetAccepted marker (postedPacket marker s) rest s) params pcmIn

end EncOperations

/-! ### The operations of DEC -/

section DecOperations

theorem local_completeDec : Local .dec completeDec := fun _ _ _ _ => rfl

theorem local_readNextPacket (next : DecPend) {onExhausted : State → State} (loc : Local .dec onExhausted) :
    Local .dec (readNextPacket next onExhausted) := by
  intro x s params pcmIn
  simp only [readNextPacket, withPartOf_dec_oggRd]
  rcases s.oggRd.script with _ | ⟨_ | _ | _, rest⟩
  · rfl
  · rfl
  · exact loc x (s.withOggRd { script := rest, reads := s.oggRd.reads + 1 }) params pcmIn
  · rfl

theorem local_constructDec : Local .dec constructDec := by
  refine Local.ite (fun _ _ => Iff.rfl) (fun x s _ _ => ?_) (local_raise .dec .invalidSampleRate 0)
  simp only [withPartOf_dec_dec, withPartOf_dec_opusDec]
  rcases s.opusDec.script.construct with _ | ⟨_ | _, _⟩ <;> rfl

theorem local_openCounters : Local .dec openCounters := by
  intro x s _ _
  simp only [openCounters, withPartOf_dec_dec]
  cases scale16 s.dec.preSkip48.toNat Config.refRate s.dec.tRate.toNat <;> rfl

theorem local_setGain : Local .dec setGain := by
  intro x s params pcmIn
  simp only [setGain, withPartOf_dec_opusDec]
  rcases s.opusDec.script.gain with _ | ⟨_ | _, rest⟩
  · rfl
  · exact local_openCounters x (((opusDecDid (.setGain s.dec.gain) { s.opusDec.script with gain := rest } s).withOpusDec _)) params
      pcmIn
  · rfl

theorem local_frameOut (n endPos : Nat) (last : Bool) : Local .dec (frameOut n endPos last) := by
  intro x s _ _
  simp only [frameOut, State.withDec_dec, withPartOf_dec_dec]
  cases tailTrim n (toU64 (s.dec.totalDec.toNat + n)).toNat endPos last <;> rfl

theorem local_frameEnd : Local .dec frameEnd := by
  intro x s params pcmIn
  simp only [frameEnd, withPartOf_dec_dec]
  cases scale64 s.dec.pktGran.toNat Config.refRate s.dec.tRate.toNat
  · rfl
  · exact local_frameOut _ _ _ x s params pcmIn

theorem local_decodePacket : Local .dec decodePacket := by
  intro x s params pcmIn
  cases answer : s.opusDec.script.decode with
  | nil => rw [decodePacket_of_unanswered answer, decodePacket_of_unanswered (s := withPartOf .dec x s) answer]
  | cons a rest =>
    cases a with
    | err reason =>
      rw [decodePacket_of_err answer, decodePacket_of_err (s := withPartOf .dec x s) answer]
      rfl
    | ok d =>
      rcases Nat.lt_or_ge 5760 d.n with long | fits
      · rw [decodePacket_of_lt answer long, decodePacket_of_lt (s := withPartOf .dec x s) answer long]
        rfl
      · rw [decodePacket_of_le answer fits, decodePacket_of_le (s := withPartOf .dec x s) answer fits, withPartOf_params, params]
        split_ifs
        · rfl
        · exact local_frameEnd x (decoded d rest s) params pcmIn

theorem local_decodeRange : Local .dec decodeRange := by
  intro x s params pcmIn
  cases answer : s.opusDec.script.range with
  | nil => rw [decodeRange_of_unanswered answer, decodeRange_of_unanswered (s := withPartOf .dec x s) answer]
  | cons v rest =>
    rw [decodeRange_of_value answer, decodeRange_of_value (s := withPartOf .dec x s) answer]
    exact local_frameEnd x (decRanged v rest s) params pcmIn

end DecOperations

/-! ### The instructions -/

/-- An instruction of a pipeline that gives a next state gives the same part of it whatever the rest of the state is. -/
def RunsLocally (p : Pipe) (m : State → Host.Outcome State Fault Refusal) : Prop :=
  ∀ x s t : State, x.params = s.params → x.pcmIn = s.pcmIn → m s = .next t → m (withPartOf p x s) = .next (withPartOf p x t)

theorem Local.runs {p : Pipe} {f : State → State} (loc : Local p f) : RunsLocally p (fun s => .next (f s)) := by
  rintro x s t params pcmIn ⟨⟩
  exact congrArg _ (loc x s params pcmIn)

theorem RunsLocally.ite {p : Pipe} {c : State → Prop} [DecidablePred c] {m n : State → Host.Outcome State Fault Refusal}
    (agrees : ∀ x s, x.params = s.params → (c (withPartOf p x s) ↔ c s)) (whenTrue : RunsLocally p m)
    (whenFalse : RunsLocally p n) : RunsLocally p (fun s => if c s then m s else n s) := by
  intro x s t params pcmIn ran
  by_cases holds : c s
  · simp only [if_pos holds, if_pos ((agrees x s params).mpr holds)] at ran ⊢
    exact whenTrue x s t params pcmIn ran
  · simp only [if_neg holds, if_neg (mt (agrees x s params).mp holds)] at ran ⊢
    exact whenFalse x s t params pcmIn ran

/-- A phase that goes by its pending action runs locally when each of its actions is local. -/
theorem runsLocally_of_encPend {m : State → Host.Outcome State Fault Refusal}
    (byPend : ∀ pend, ∃ f, Local .enc f ∧ ∀ s, s.enc.pend = pend → m s = .next (f s)) : RunsLocally .enc m := by
  intro x s t params pcmIn ran
  obtain ⟨f, loc, runs⟩ := byPend s.enc.pend
  rw [runs s rfl] at ran
  rw [runs (withPartOf .enc x s) rfl]
  exact loc.runs x s t params pcmIn ran

theorem runsLocally_of_decPend {m : State → Host.Outcome State Fault Refusal}
    (byPend : ∀ pend, ∃ f, Local .dec f ∧ ∀ s, s.dec.pend = pend → m s = .next (f s)) : RunsLocally .dec m := by
  intro x s t params pcmIn ran
  obtain ⟨f, loc, runs⟩ := byPend s.dec.pend
  rw [runs s rfl] at ran
  rw [runs (withPartOf .dec x s) rfl]
  exact loc.runs x s t params pcmIn ran

theorem status_withPartOf (p : Pipe) (x s : State) : status p (withPartOf p x s) = status p s := by
  cases p <;> rfl

theorem runsLocally_eOpen : RunsLocally .enc (exec .eOpen) := runsLocally_of_encPend fun pend => by
  cases pend with
  | bitrate => exact ⟨setBitrate, local_setBitrate, fun s pend => by simp only [exec, execEOpen, pend]⟩
  | _ => exact ⟨constructEnc, local_constructEnc, fun s pend => by simp only [exec, execEOpen, pend]⟩

theorem runsLocally_eLook : RunsLocally .enc (exec .eLook) := by
  intro x s t params pcmIn ran
  cases answer : s.opusEnc.script.lookahead with
  | nil =>
    cases (exec_eLook_of_unanswered answer).symm.trans ran
    exact exec_eLook_of_unanswered answer
  | cons a rest =>
    cases a with
    | err reason =>
      cases (exec_eLook_of_err answer).symm.trans ran
      exact exec_eLook_of_err answer
    | ok n =>
      rcases Nat.lt_or_ge 65535 n with long | fits
      · cases (exec_eLook_of_lt answer long).symm.trans ran
        exact exec_eLook_of_lt answer long
      · cases (exec_eLook_of_le answer fits).symm.trans ran
        exact (exec_eLook_of_le (s := withPartOf .enc x s) answer fits).trans
          (congrArg _ (local_lookRegs n x (lookaheadAsked rest s) params pcmIn))

theorem runsLocally_eSerial : RunsLocally .enc (exec .eSerial) := by
  intro x s t params _ ran
  have instanceId : (withPartOf .enc x s).params.instanceId = s.params.instanceId := by rw [withPartOf_params, params]
  cases samples : s.randIn with
  | nil =>
    cases (exec_eSerial_of_sampleRand (sampleRand_of_unsupplied samples)).symm.trans ran
    rw [exec_eSerial_of_sampleRand (sampleRand_of_unsupplied (s := withPartOf .enc x s) samples), instanceId]
    rfl
  | cons r rest =>
    cases (exec_eSerial_of_sampleRand (sampleRand_of_supplied samples)).symm.trans ran
    rw [exec_eSerial_of_sampleRand (sampleRand_of_supplied (s := withPartOf .enc x s) samples), instanceId]
    rfl

theorem runsLocally_eValidate : RunsLocally .enc (exec .eValidate) := by
  intro x s t _ _ ran
  by_cases supported : s.enc.rate.toNat ∈ Config.rates
  · cases (exec_eValidate_of_supported supported).symm.trans ran
    exact exec_eValidate_of_supported (s := withPartOf .enc x s) supported
  · cases (exec_eValidate_of_unsupported supported).symm.trans ran
    exact exec_eValidate_of_unsupported (s := withPartOf .enc x s) supported

theorem runsLocally_eHead : RunsLocally .enc (exec .eHead) := by
  intro x s t _ _ ran
  cases (exec_eHead s).symm.trans ran
  exact exec_eHead (withPartOf .enc x s)

theorem runsLocally_eTags : RunsLocally .enc (exec .eTags) := by
  intro x s t params _ ran
  have vendor : (withPartOf .enc x s).params.vendor = s.params.vendor := by rw [withPartOf_params, params]
  rcases Nat.lt_or_ge 3984 s.params.vendor.length with long | short
  · cases (everyInstructionCompletes.2 s long).symm.trans ran
  · cases (exec_eTags_of_le short).symm.trans ran
    rw [exec_eTags_of_le (s := withPartOf .enc x s) (vendor.symm ▸ short), vendor]
    rfl

theorem runsLocally_eMain : RunsLocally .enc (exec .eMain) := runsLocally_of_encPend fun pend => by
  cases pend with
  | loop => exact ⟨mainLoop, local_mainLoop, fun _ => exec_eMain_of_loop⟩
  | encode slots =>
    exact ⟨encodeFrame mainPost slots, local_encodeFrame local_mainPost slots, fun s pend => by
      simp only [exec, execEMain, pend]⟩
  | range len slots =>
    exact ⟨encodeRange mainPost len slots, local_encodeRange local_mainPost len slots, fun s pend => by
      simp only [exec, execEMain, pend]⟩
  | _ => exact ⟨mainStart, local_mainStart, fun s pend => by simp only [exec, execEMain, pend]⟩

theorem runsLocally_eTail : RunsLocally .enc (exec .eTail) := runsLocally_of_encPend fun pend => by
  cases pend with
  | encode slots =>
    exact ⟨encodeFrame tailPost slots, local_encodeFrame local_tailPost slots, fun s pend => by
      simp only [exec, execETail, pend]⟩
  | range len slots =>
    exact ⟨encodeRange tailPost len slots, local_encodeRange local_tailPost len slots, fun s pend => by
      simp only [exec, execETail, pend]⟩
  | _ => exact ⟨tailLoop, local_tailLoop, fun s pend => by simp only [exec, execETail, pend]⟩

theorem runsLocally_eFinal : RunsLocally .enc (exec .eFinal) := runsLocally_of_encPend fun pend => by
  cases pend with
  | encode slots =>
    exact ⟨encodeFrame finalPost slots, local_encodeFrame local_finalPost slots, fun s pend => by
      simp only [exec, execEFinal, pend]⟩
  | range len slots =>
    exact ⟨encodeRange finalPost len slots, local_encodeRange local_finalPost len slots, fun s pend => by
      simp only [exec, execEFinal, pend]⟩
  | _ => exact ⟨finalStart, local_finalStart, fun s pend => by simp only [exec, execEFinal, pend]⟩

theorem runsLocally_dOpen : RunsLocally .dec (exec .dOpen) := runsLocally_of_decPend fun pend => by
  cases pend with
  | gain => exact ⟨setGain, local_setGain, fun _ => exec_dOpen_of_gain⟩
  | _ => exact ⟨constructDec, local_constructDec, fun s pend => by simp only [exec, execDOpen, pend]⟩

theorem runsLocally_dFrame : RunsLocally .dec (exec .dFrame) := runsLocally_of_decPend fun pend => by
  cases pend with
  | packet => exact ⟨decodePacket, local_decodePacket, fun _ => exec_dFrame_of_packet⟩
  | range => exact ⟨decodeRange, local_decodeRange, fun _ => exec_dFrame_of_range⟩
  | _ =>
    exact ⟨readNextPacket .packet completeDec, local_readNextPacket .packet local_completeDec, fun s pend => by
      simp only [exec, execDFrame, pend]⟩

theorem runsLocally_opusHead {ch family : BitVec 8} {preSkip gain : BitVec 16} {rate : BitVec 32} {extra : List Byte} :
    RunsLocally .dec (exec (.opusHead ch preSkip rate gain family extra)) := by
  intro x s t _ _ ran
  by_cases channels : ch = 1 ∨ ch = 2
  · cases (exec_opusHead_of_channels channels).symm.trans ran
    exact exec_opusHead_of_channels channels
  · cases (exec_opusHead_of_not_channels channels).symm.trans ran
    exact exec_opusHead_of_not_channels channels

theorem local_id (p : Pipe) : Local p id := fun _ _ _ _ => rfl

theorem exec_runsLocally {i : Instr} {p : Pipe} (belongs : pipeOf i = some p) : RunsLocally p (exec i) := by
  have raises : ∀ p e info, RunsLocally p (fun s => .next (raise p e info s)) := fun p e info => (local_raise p e info).runs
  have dropsWhenBusy : ∀ {p m}, RunsLocally p m → RunsLocally p (fun s => if status p s = .busy then .next s else m s) :=
    fun runs => RunsLocally.ite (fun x s _ => by rw [status_withPartOf]) (local_id _).runs runs
  cases i <;> cases belongs
  case encode ch rate =>
    exact dropsWhenBusy (RunsLocally.ite (fun _ _ _ => Iff.rfl) (raises _ _ _)
      (Local.runs (f := acceptEncode ch rate) fun _ _ _ _ => rfl))
  case decode rate => exact dropsWhenBusy (Local.runs (f := acceptDecode rate) fun _ _ _ _ => rfl)
  case illegalCommand => exact dropsWhenBusy (raises _ _ _)
  case eIdle | eError | dIdle | dError => exact (local_id _).runs
  case eValidate => exact runsLocally_eValidate
  case eOpen => exact runsLocally_eOpen
  case eLook => exact runsLocally_eLook
  case eSerial => exact runsLocally_eSerial
  case eHead => exact runsLocally_eHead
  case eTags => exact runsLocally_eTags
  case eMain => exact runsLocally_eMain
  case eTail => exact runsLocally_eTail
  case eFinal => exact runsLocally_eFinal
  case eDone => exact local_completeEnc.runs
  case dHead => exact (local_readNextPacket .head (local_raise _ _ _)).runs
  case dOpen => exact runsLocally_dOpen
  case dTags => exact (local_readNextPacket .tags (local_raise _ _ _)).runs
  case dFrame => exact runsLocally_dFrame
  case dDone => exact local_completeDec.runs
  case normal | endPage | endStream => exact (local_emit _).runs
  case errNone => cases p <;> exact Local.runs fun _ _ _ _ => rfl
  case malformedAudio | invalidSampleRate | codecFailure | ioFailure | assertFail => exact raises _ _ _
  case opusHead => exact runsLocally_opusHead
  case opusTags => exact Local.runs fun _ _ _ _ => rfl

/-! ### Sharing no state, and commuting -/

/-- An instruction of a pipeline changes that pipeline's part only. -/
theorem exec_eq_withPartOf {i : Instr} {p : Pipe} {s t : State} (belongs : pipeOf i = some p) (ran : exec i s = .next t) :
    t = withPartOf p s t := by
  have again := exec_runsLocally belongs s s t rfl rfl ran
  rw [withPartOf_self, ran] at again
  exact Host.Outcome.next.inj again

/-- Settles O55: nothing but the instruction's own pipeline's part of the state differs afterwards. -/
theorem pipelinesShareNoState : Obligations.PipelinesShareNoState := by
  intro i s t ran
  refine ⟨fun enc => ?enc, fun dec => ?dec⟩
  case enc =>
    rw [exec_eq_withPartOf enc ran]
    exact ⟨rfl, rfl, rfl, rfl, rfl, rfl, rfl, rfl, rfl, rfl⟩
  case dec =>
    rw [exec_eq_withPartOf dec ran]
    exact ⟨rfl, rfl, rfl, rfl, rfl, rfl, rfl, rfl, rfl, rfl, rfl⟩

/-- Settles O56: either instruction gives the same part in the state that the other one leaves, and the two parts are apart. -/
theorem pipelineStepsCommute : Obligations.PipelineStepsCommute := by
  intro i j s t u enc dec ranEnc ranDec
  have t_eq := exec_eq_withPartOf enc ranEnc
  have u_eq := exec_eq_withPartOf dec ranDec
  refine ⟨withPartOf .dec t u, ?decAfter, ?encAfter⟩
  case decAfter =>
    have after := exec_runsLocally dec t s u (by rw [t_eq]; rfl) (by rw [t_eq]; rfl) ranDec
    have same : withPartOf .dec t s = t := by rw [t_eq]; rfl
    rwa [same] at after
  case encAfter =>
    have after := exec_runsLocally enc u s t (by rw [u_eq]; rfl) (by rw [u_eq]; rfl) ranEnc
    have same : withPartOf .enc u s = u := by rw [u_eq]; rfl
    have merged : withPartOf .enc u t = withPartOf .dec t u := by rw [t_eq, u_eq]; rfl
    rwa [same, merged] at after

end Sys2Proof.Proofs
end

section
/-! PROOF. What one step does to each pipeline, and what leaves rest (30_encoding.md R62 to R64; 60_exceptions.md R206, R208). -/

namespace Sys2Proof.Proofs

open Sys2Proof.Machine

/-! ### The instruction behind a code -/

theorem mem_of_decodeEncPhase {c : BitVec 4} {i : Instr} (word : decodeEncPhase c = .instr i) :
    (c, i) ∈ [((0 : BitVec 4), Instr.eIdle), (1, .eValidate), (2, .eOpen), (3, .eLook), (4, .eSerial), (5, .eHead),
      (6, .eTags), (7, .eMain), (8, .eTail), (9, .eFinal), (10, .eDone), (15, .eError)] := by
  unfold decodeEncPhase at word
  split at word
  all_goals cases word
  all_goals simp [← BitVec.toNat_inj, *]

theorem mem_of_decodeDecPhase {c : BitVec 4} {i : Instr} (word : decodeDecPhase c = .instr i) :
    (c, i) ∈ [((0 : BitVec 4), Instr.dIdle), (1, .dHead), (2, .dOpen), (3, .dTags), (4, .dFrame), (5, .dDone),
      (15, .dError)] := by
  unfold decodeDecPhase at word
  split at word
  all_goals cases word
  all_goals simp [← BitVec.toNat_inj, *]

theorem mem_of_decodeEndMark {m : BitVec 2} {i : Instr} (word : decodeEndMark m = .instr i) :
    (i, m) ∈ [(Instr.normal, (0 : BitVec 2)), (.endPage, 1), (.endStream, 2)] := by
  unfold decodeEndMark at word
  split at word
  all_goals cases word
  all_goals simp [← BitVec.toNat_inj, *]

theorem mem_of_decodeErrCode {p : Pipe} {c : BitVec 3} {info : BitVec 32} {i : Instr}
    (word : decodeErrCode p c info = .instr i) :
    i ∈ [.errNone p, .malformedAudio p, .invalidSampleRate p, .codecFailure p info, .ioFailure p info, .assertFail p,
      .illegalCommand p] := by
  unfold decodeErrCode at word
  split at word
  all_goals cases word
  all_goals simp

/-! ### The word at a pipeline -/

/-- What ENC runs: the end marker of a posted packet, a posted error code, or the rule of its phase. -/
inductive EncWord (s : State) (i : Instr) : Prop
  | endMark (len : Nat) (m : BitVec 2) (g : BitVec 64) (posted : s.enc.pend = .write len m g)
      (marker : (i, m) ∈ [(Instr.normal, (0 : BitVec 2)), (.endPage, 1), (.endStream, 2)])
  | errCode (c : BitVec 3) (info : BitVec 32) (posted : s.enc.pend = .error c info)
      (error : i ∈ [.errNone .enc, .malformedAudio .enc, .invalidSampleRate .enc, .codecFailure .enc info,
        .ioFailure .enc info, .assertFail .enc, .illegalCommand .enc])
  | phase (rule : (s.enc.phase, i) ∈ [((0 : BitVec 4), Instr.eIdle), (1, .eValidate), (2, .eOpen), (3, .eLook), (4, .eSerial),
      (5, .eHead), (6, .eTags), (7, .eMain), (8, .eTail), (9, .eFinal), (10, .eDone), (15, .eError)])

theorem encWord_of_decode {s : State} {i : Instr} (word : decode (encCode s) = .instr i) : EncWord s i := by
  unfold encCode at word
  split at word
  · exact .endMark _ _ _ ‹_› (mem_of_decodeEndMark word)
  · exact .errCode _ _ ‹_› (mem_of_decodeErrCode word)
  · exact .phase (mem_of_decodeEncPhase word)

/-- What DEC runs: a packet to interpret, a posted error code, or the rule of its phase. -/
inductive DecWord (s : State) (i : Instr) : Prop
  | headPacket (read : s.dec.pend = .head) (packet : i = decodeHeadPacket (pktBytes s))
  | tagsPacket (read : s.dec.pend = .tags) (packet : i = decodeTagsPacket (pktBytes s))
  | errCode (c : BitVec 3) (info : BitVec 32) (posted : s.dec.pend = .error c info)
      (error : i ∈ [.errNone .dec, .malformedAudio .dec, .invalidSampleRate .dec, .codecFailure .dec info,
        .ioFailure .dec info, .assertFail .dec, .illegalCommand .dec])
  | phase (rule : (s.dec.phase, i) ∈ [((0 : BitVec 4), Instr.dIdle), (1, .dHead), (2, .dOpen), (3, .dTags), (4, .dFrame),
      (5, .dDone), (15, .dError)])

theorem decWord_of_decode {s : State} {i : Instr} (word : decode (decCode s) = .instr i) : DecWord s i := by
  unfold decCode at word
  split at word
  · exact .headPacket ‹_› (Decoded.instr.inj word).symm
  · exact .tagsPacket ‹_› (Decoded.instr.inj word).symm
  · exact .errCode _ _ ‹_› (mem_of_decodeErrCode word)
  · exact .phase (mem_of_decodeDecPhase word)

theorem pipeOf_of_errCode {p : Pipe} {info : BitVec 32} {i : Instr}
    (error : i ∈ [Instr.errNone p, .malformedAudio p, .invalidSampleRate p, .codecFailure p info, .ioFailure p info,
      .assertFail p, .illegalCommand p]) : pipeOf i = some p := by
  simp only [List.mem_cons, List.not_mem_nil, or_false] at error
  rcases error with rfl | rfl | rfl | rfl | rfl | rfl | rfl <;> rfl

theorem EncWord.pipeOf {s : State} {i : Instr} (word : EncWord s i) : Machine.pipeOf i = some .enc := by
  cases word with
  | endMark len m g _ marker =>
    simp only [List.mem_cons, Prod.mk.injEq, List.not_mem_nil, or_false] at marker
    rcases marker with ⟨rfl, -⟩ | ⟨rfl, -⟩ | ⟨rfl, -⟩ <;> rfl
  | errCode c info _ error => exact pipeOf_of_errCode error
  | phase rule =>
    simp only [List.mem_cons, Prod.mk.injEq, List.not_mem_nil, or_false] at rule
    rcases rule with ⟨-, rfl⟩ | ⟨-, rfl⟩ | ⟨-, rfl⟩ | ⟨-, rfl⟩ | ⟨-, rfl⟩ | ⟨-, rfl⟩ | ⟨-, rfl⟩ | ⟨-, rfl⟩ | ⟨-, rfl⟩ |
      ⟨-, rfl⟩ | ⟨-, rfl⟩ | ⟨-, rfl⟩ <;> rfl

theorem decodeHeadPacket_cases (b : List Byte) :
    (∃ ch preSkip rate gain family extra, decodeHeadPacket b = .opusHead ch preSkip rate gain family extra) ∨
      decodeHeadPacket b = .malformedAudio .dec := by
  by_cases reads : ReadsAsIdHeader b
  · exact .inl ⟨_, _, _, _, _, _, decodeHeadPacket_of_reads reads⟩
  · exact .inr (decodeHeadPacket_of_not_reads reads)

theorem DecWord.pipeOf {s : State} {i : Instr} (word : DecWord s i) : Machine.pipeOf i = some .dec := by
  cases word with
  | headPacket _ packet =>
    obtain ⟨_, _, _, _, _, _, head⟩ | malformed := decodeHeadPacket_cases (pktBytes s)
    · rw [packet, head]; rfl
    · rw [packet, malformed]; rfl
  | tagsPacket _ packet =>
    obtain ⟨_, _, tags⟩ | malformed := decodeTagsPacket_cases (pktBytes s)
    · rw [packet, tags]; rfl
    · rw [packet, malformed]; rfl
  | errCode c info _ error => exact pipeOf_of_errCode error
  | phase rule =>
    simp only [List.mem_cons, Prod.mk.injEq, List.not_mem_nil, or_false] at rule
    rcases rule with ⟨-, rfl⟩ | ⟨-, rfl⟩ | ⟨-, rfl⟩ | ⟨-, rfl⟩ | ⟨-, rfl⟩ | ⟨-, rfl⟩ | ⟨-, rfl⟩ <;> rfl

theorem pipeOf_decodeEncCmd (w : BitVec 64) : pipeOf (decodeEncCmd w) = some .enc := by
  obtain ⟨_, _, command⟩ | illegal := decodeEncCmd_cases w
  · rw [command]; rfl
  · rw [illegal]; rfl

theorem pipeOf_decodeDecCmd (w : BitVec 64) : pipeOf (decodeDecCmd w) = some .dec := by
  obtain ⟨_, command⟩ | illegal := decodeDecCmd_cases w
  · rw [command]; rfl
  · rw [illegal]; rfl

/-- A CONV operation drives the port's outputs and nothing else. -/
theorem exec_decodeConv {sel : BitVec 2} {value : BitVec 64} {src dst : BitVec 32} {s t : State}
    (ran : exec (decodeConv sel value src dst) s = .next t) : ∃ out, t = { s with convOut := out } := by
  have drives : ∀ r, ∃ out, driveConv r s = { s with convOut := out } := by
    rintro (_ | v) <;> exact ⟨_, rfl⟩
  unfold decodeConv at ran
  split at ran <;> cases ran <;> exact drives _

/-! ### The kinds of step -/

/-- What a step is, run at the state `u` with the schedule, and the host's queue, moved on. -/
inductive Stepped (s u t : State) : Prop
  | idle (same : t = u)
  | hostOp (op : HostOp) (rest : List HostOp) (moves : (nextAgent s).1 = .host) (queued : s.inputs = op :: rest)
      (ran : Machine.hostOp op u = .next t)
  | encCmd (w : BitVec 64) (rest : List HostOp) (moves : (nextAgent s).1 = .host) (queued : s.inputs = .encCmd w :: rest)
      (ran : exec (decodeEncCmd w) u = .next t)
  | decCmd (w : BitVec 64) (rest : List HostOp) (moves : (nextAgent s).1 = .host) (queued : s.inputs = .decCmd w :: rest)
      (ran : exec (decodeDecCmd w) u = .next t)
  | conv (out : ConvOut) (driven : t = { u with convOut := out })
  | enc (i : Instr) (word : EncWord u i) (ran : exec i u = .next t)
  | dec (i : Instr) (word : DecWord u i) (ran : exec i u = .next t)

theorem stepped_of_step {s t : State} (ran : step s = .next t) :
    ∃ sched inputs, Stepped s { s with sched := sched, inputs := inputs } t := by
  obtain ⟨sched, moved⟩ := nextAgent_state s
  obtain ⟨u, -, rfl, rfl⟩ | ⟨u, op, rest, host, queued, -, rfl, ran⟩ | ⟨u, op, rest, c, i, host, queued, word, rfl, reads, ran⟩ |
    ⟨u, i, -, rfl, reads, ran⟩ | ⟨u, i, -, rfl, reads, ran⟩ := step_eq_next_cases s t ran
  all_goals rw [moved] at *
  · exact ⟨sched, s.inputs, .idle rfl⟩
  · exact ⟨sched, rest, .hostOp op rest host queued ran⟩
  · refine ⟨sched, rest, ?_⟩
    cases op <;> cases word <;> cases reads
    · exact .encCmd _ rest host queued ran
    · exact .decCmd _ rest host queued ran
    · obtain ⟨out, driven⟩ := exec_decodeConv ran
      exact .conv out driven
  · exact ⟨sched, s.inputs, .enc i (encWord_of_decode reads) ran⟩
  · exact ⟨sched, s.inputs, .dec i (decWord_of_decode reads) ran⟩

/-! ### What leaves rest -/

theorem statusWithDone_ne_busy_iff (d c : BitVec 4) : statusWithDone d c ≠ .busy ↔ c = 0 ∨ c = d ∨ c = 15 := by
  unfold statusWithDone
  split_ifs with idle done error
  · exact iff_of_true nofun (.inl idle)
  · exact iff_of_true nofun (.inr (.inl done))
  · exact iff_of_true nofun (.inr (.inr error))
  · exact iff_of_false (fun free => free rfl) (fun rest => rest.elim idle (Or.rec done error))

theorem status_enc_ne_busy_iff (s : State) :
    status .enc s ≠ .busy ↔ s.enc.phase = 0 ∨ s.enc.phase = 10 ∨ s.enc.phase = 15 :=
  statusWithDone_ne_busy_iff 10 s.enc.phase

theorem status_dec_ne_busy_iff (s : State) :
    status .dec s ≠ .busy ↔ s.dec.phase = 0 ∨ s.dec.phase = 5 ∨ s.dec.phase = 15 :=
  statusWithDone_ne_busy_iff 5 s.dec.phase

/-- At rest, with nothing pending, ENC's own rule keeps its phase. -/
theorem EncWord.keeps_rest {s t : State} {i : Instr} (word : EncWord s i) (ran : exec i s = .next t)
    (free : status .enc s ≠ .busy) (start : s.enc.pend = .start) : t.enc.phase = s.enc.phase := by
  rw [status_enc_ne_busy_iff] at free
  cases word with
  | endMark len m g posted _ => cases start.symm.trans posted
  | errCode c info posted _ => cases start.symm.trans posted
  | phase rule =>
    rcases free with rest | rest | rest <;> rw [rest] at rule ⊢ <;> simp at rule <;> subst rule <;> cases ran
    · exact rest
    · rfl
    · exact rest

theorem DecWord.keeps_rest {s t : State} {i : Instr} (word : DecWord s i) (ran : exec i s = .next t)
    (free : status .dec s ≠ .busy) (start : s.dec.pend = .start) : t.dec.phase = s.dec.phase := by
  rw [status_dec_ne_busy_iff] at free
  cases word with
  | headPacket read _ => cases start.symm.trans read
  | tagsPacket read _ => cases start.symm.trans read
  | errCode c info posted _ => cases start.symm.trans posted
  | phase rule =>
    rcases free with rest | rest | rest <;> rw [rest] at rule ⊢ <;> simp at rule <;> subst rule <;> cases ran
    · exact rest
    · rfl
    · exact rest

/-- Settles O54: at rest a pipeline's own rule keeps its phase, the other pipeline and CONV do not touch it, and of the host's
operations only RESET does. -/
theorem onlyACommandOrResetLeavesRest : Obligations.OnlyACommandOrResetLeavesRest := by
  intro s t inv ran
  obtain ⟨sched, inputs, stepped⟩ := stepped_of_step ran
  refine ⟨fun free moved => ?enc, fun free moved => ?dec⟩
  case enc =>
    cases stepped with
    | idle same => exact absurd (congrArg (·.enc.phase) same) moved
    | hostOp op rest host queued ran =>
      by_cases isReset : op = .reset
      · exact ⟨host, op, rest, queued, .inr isReset⟩
      · obtain ⟨n, raced, -, enc⟩ := (hostOp_frame isReset ran).enc
        exact absurd (congrArg Enc.phase enc) moved
    | encCmd w rest host queued ran => exact ⟨host, _, rest, queued, .inl ⟨w, rfl⟩⟩
    | decCmd w rest host queued ran =>
      exact absurd (congrArg (·.enc.phase) (exec_eq_withPartOf (pipeOf_decodeDecCmd w) ran)) moved
    | conv out driven => exact absurd (congrArg (·.enc.phase) driven) moved
    | enc i word ran => exact absurd (word.keeps_rest ran free (inv.encRest free)) moved
    | dec i word ran => exact absurd (congrArg (·.enc.phase) (exec_eq_withPartOf word.pipeOf ran)) moved
  case dec =>
    cases stepped with
    | idle same => exact absurd (congrArg (·.dec.phase) same) moved
    | hostOp op rest host queued ran =>
      by_cases isReset : op = .reset
      · exact ⟨host, op, rest, queued, .inr isReset⟩
      · exact absurd (congrArg Dec.phase (hostOp_frame isReset ran).dec) moved
    | encCmd w rest host queued ran =>
      exact absurd (congrArg (·.dec.phase) (exec_eq_withPartOf (pipeOf_decodeEncCmd w) ran)) moved
    | decCmd w rest host queued ran => exact ⟨host, _, rest, queued, .inl ⟨w, rfl⟩⟩
    | conv out driven => exact absurd (congrArg (·.dec.phase) driven) moved
    | enc i word ran => exact absurd (congrArg (·.dec.phase) (exec_eq_withPartOf word.pipeOf ran)) moved
    | dec i word ran => exact absurd (word.keeps_rest ran free (inv.decRest free)) moved

end Sys2Proof.Proofs
end

section
/-! PROOF. What one step can do to ENC, once (43_encode.md R160 to R173; 60_exceptions.md R203): the moves that the two invariants
of ENC are proved along. -/

namespace Sys2Proof.Proofs

open Sys2Proof.Machine

/-! ### Buffers -/

/-- A buffer with elements below a capacity written, the canonical form kept. -/
def WrittenBelow {w : Nat} (cap : Nat) (m m' : Memory w) : Prop :=
  Memory.wf m = true → Memory.wf m' = true ∧ ∀ e ∈ m', e ∈ m ∨ e.1 < cap

theorem WrittenBelow.refl {w : Nat} (cap : Nat) (m : Memory w) : WrittenBelow cap m m := fun wf => ⟨wf, fun _ => .inl⟩

theorem WrittenBelow.writeBlock {w cap : Nat} (m : Memory w) {block : List (BitVec w)} (fits : block.length ≤ cap) :
    WrittenBelow cap m (Memory.writeBlock m 0 block) := by
  refine fun wf => ⟨Memory.wf_writeBlock m 0 block wf, fun e mem => (Memory.mem_writeBlock m 0 block e mem).imp_right ?_⟩
  exact fun ⟨_, below⟩ => by omega

theorem WrittenBelow.fill {s : State} {a slots : Nat} {buf : Memory 16} (fits : slots ≤ 1920)
    (ended : fillFrom s a 0 s.enc.frameBuf slots = .filled buf ∨ fillFrom s a 0 s.enc.frameBuf slots = .assertFail buf) :
    WrittenBelow 1920 s.enc.frameBuf buf := by
  intro wf
  obtain ⟨wf', elements⟩ := fillFrom_sound s a slots 0 s.enc.frameBuf buf wf ended
  exact ⟨wf', fun e mem => (elements e mem).imp_right fun below => by omega⟩

/-! ### The moves -/

/-- A frame under way whose packet of `len` bytes can be posted: its encode transaction is pending and its answer fits
ENC.PKTBUF, or its final_range transaction is pending. -/
def ReadyToPost (e : Enc) (len slots : Nat) : Prop := e.pend = .encode slots ∧ len ≤ 4000 ∨ e.pend = .range len slots

/-- What one step can do to ENC's registers and to the codec that OPUSENC holds. -/
inductive EncMove (e : Enc) (c : Option EncInst) : Enc → Option EncInst → Prop
  | stay : EncMove e c e c
  /-- A host write of N while ENC is not BUSY, or of PCM_IN. -/
  | hostWrote (n : BitVec 64) (raced : List Nat) (keepsN : statusWithDone 10 e.phase = .busy → n = e.n) :
      EncMove e c { e with n := n, raced := raced } c
  | reset : EncMove e c Enc.reset none
  | accepted (ch : BitVec 8) (rate : BitVec 32) (legal : ch.toNat ≤ 2) :
      EncMove e c { e with err := 0, errInfo := 0, diagV := false, eos := false, rate := rate, cmdCh := ch, raced := [],
                           phase := 1, pend := .start } c
  /-- `raise`, after whatever the rule has written. -/
  | raised (written : Enc) (code : BitVec 3) (info : BitVec 32) (legal : code ≠ 7) (cmdCh : written.cmdCh = e.cmdCh)
      (ch : written.ch = e.ch) (frame : WrittenBelow 1920 e.frameBuf written.frameBuf)
      (packet : WrittenBelow 4000 e.pktBuf written.pktBuf) :
      EncMove e c { written with err := code, errInfo := info, phase := 15, pend := .start } none
  | errCleared : EncMove e c { e with err := 0, errInfo := 0, pend := .start } c
  | validated (phase : e.phase = 1) (rate : rateOk e.rate.toNat = true) :
      EncMove e c { e with ch := if e.cmdCh = 0 then 1 else e.cmdCh, phase := 2, pend := .start } c
  | constructed (phase : e.phase = 2) (c' : Option EncInst) : EncMove e c { e with pend := .bitrate } c'
  | opened (phase : e.phase = 2) (c' : Option EncInst) : EncMove e c { e with phase := 3, pend := .start } c'
  | looked (phase : e.phase = 3) (skip skip48 : BitVec 16) (slots : Nat) (short : slots < 2 ^ 24) :
      EncMove e c { e with skip := skip, skipSl := toU64 slots, total := toU64 (e.n.toNat + slots), skip48 := skip48,
                           phase := 4, pend := .start } c
  | drew (phase : e.phase = 4) (serial : BitVec 32) : EncMove e c { e with serial := serial, phase := 5, pend := .start } c
  | headerPosted (phase : e.phase = 5 ∨ e.phase = 6) (buf : Memory 8) (len : Nat) (packet : WrittenBelow 4000 e.pktBuf buf)
      (fits : len ≤ 4000) : EncMove e c { e with pktBuf := buf, pend := .write len 1 0 } c
  | mainStarted (phase : e.phase = 7) (fs fsz max : BitVec 64) (hfs : fs.toNat = e.rate.toNat / 50)
      (hfsz : fsz.toNat = fs.toNat * e.ch.toNat) (hmax : max.toNat = e.total.toNat / fsz.toNat) :
      EncMove e c { e with fs := fs, fsz := fsz, max := max, idx := 0, pend := .loop } c
  | mainFilled (phase : e.phase = 7) (loop : e.pend = .loop) (under : e.idx.toNat < e.max.toNat) (buf : Memory 16)
      (frame : WrittenBelow 1920 e.frameBuf buf) :
      EncMove e c { e with frameBuf := buf, pend := .encode e.fsz.toNat } c
  | mainEnded (phase : e.phase = 7) (loop : e.pend = .loop) :
      EncMove e c { e with pos := toU64 (e.max.toNat * e.fsz.toNat), phase := 8, pend := .start } c
  | tailFilled (phase : e.phase = 8) (d : Nat) (picked : tailPick e.rate.toNat e.ch.toNat e.pos.toNat e.total.toNat = some d)
      (fits : d * e.ch.toNat ≤ 1920) (buf : Memory 16) (frame : WrittenBelow 1920 e.frameBuf buf) :
      EncMove e c { e with frameBuf := buf, pend := .encode (d * e.ch.toNat) } c
  | tailEnded (phase : e.phase = 8) (none : tailPick e.rate.toNat e.ch.toNat e.pos.toNat e.total.toNat = none) :
      EncMove e c { e with phase := 9, pend := .start } c
  | finalFilled (phase : e.phase = 9) (slots : Nat) (buf : Memory 16) (frame : WrittenBelow 1920 e.frameBuf buf) :
      EncMove e c { e with frameBuf := buf, pend := .encode slots } c
  | encoded (phase : e.phase = 7 ∨ e.phase = 8 ∨ e.phase = 9) (len slots : Nat) (encode : e.pend = .encode slots)
      (fits : len ≤ 4000) (buf : Memory 8) (packet : WrittenBelow 4000 e.pktBuf buf) :
      EncMove e c { e with pktBuf := buf, pend := .range len slots } c
  | posted (phase : e.phase = 7 ∨ e.phase = 9) (len slots : Nat) (ready : ReadyToPost e len slots) (buf : Memory 8)
      (packet : WrittenBelow 4000 e.pktBuf buf) (diag : BitVec 32) (diagV : Bool) (m : BitVec 2) (marker : m ≠ 3)
      (g : BitVec 64) : EncMove e c { e with pktBuf := buf, diag := diag, diagV := diagV, pend := .write len m g } c
  | tailPosted (phase : e.phase = 8) (len slots : Nat) (ready : ReadyToPost e len slots) (buf : Memory 8)
      (packet : WrittenBelow 4000 e.pktBuf buf) (diag : BitVec 32) (diagV : Bool) (m : BitVec 2) (marker : m ≠ 3)
      (g : BitVec 64) :
      EncMove e c { e with pktBuf := buf, diag := diag, diagV := diagV, pos := toU64 (e.pos.toNat + slots),
                           pend := .write len m g } c
  | headerWritten (eos : Bool) (next : BitVec 4) (phase : e.phase = 5 ∧ next = 6 ∨ e.phase = 6 ∧ next = 7) :
      EncMove e c { e with eos := eos, phase := next, pend := .start } c
  | mainWritten (phase : e.phase = 7) (len : Nat) (m : BitVec 2) (g : BitVec 64) (write : e.pend = .write len m g)
      (eos : Bool) : EncMove e c { e with eos := eos, idx := toU64 (e.idx.toNat + 1), pend := .loop } c
  | written (eos : Bool) : EncMove e c { e with eos := eos, pend := .start } c
  /-- E_DONE, whether entered or rested in. -/
  | completed (eos : Bool) (pos : BitVec 64) : EncMove e c { e with eos := eos, pos := pos, phase := 10, pend := .start } none

/-- The move of ENC between two states of the machine. -/
def EncMoves (s t : State) : Prop := EncMove s.enc s.opusEnc.inst t.enc t.opusEnc.inst

theorem encMoves_of_eq {s t : State} (same : t = s) : EncMoves s t := same ▸ .stay

/-! ### Raising -/

theorem encMoves_raised {s u : State} (code : BitVec 3) (info : BitVec 32) (legal : code ≠ 7)
    (cmdCh : u.enc.cmdCh = s.enc.cmdCh) (ch : u.enc.ch = s.enc.ch) (frame : WrittenBelow 1920 s.enc.frameBuf u.enc.frameBuf)
    (packet : WrittenBelow 4000 s.enc.pktBuf u.enc.pktBuf) : EncMoves s (encRaised code info u) :=
  .raised u.enc code info legal cmdCh ch frame packet

/-- Raising with neither buffer written nor the channels changed. -/
theorem encMoves_encRaised {s u : State} {code : BitVec 3} {info : BitVec 32} (legal : code ≠ 7)
    (same : u.enc.cmdCh = s.enc.cmdCh ∧ u.enc.ch = s.enc.ch ∧ u.enc.frameBuf = s.enc.frameBuf ∧ u.enc.pktBuf = s.enc.pktBuf) :
    EncMoves s (encRaised code info u) := by
  obtain ⟨cmdCh, ch, frame, packet⟩ := same
  exact encMoves_raised code info legal cmdCh ch (frame ▸ .refl _ _) (packet ▸ .refl _ _)

theorem code_ne_seven (e : ErrKind) : e.code ≠ 7 := by
  cases e <;> decide

theorem encMoves_raise (e : ErrKind) (info : BitVec 32) (s : State) : EncMoves s (raise .enc e info s) :=
  encMoves_encRaised (code_ne_seven e) ⟨rfl, rfl, rfl, rfl⟩

/-! ### Frames, their transactions and their packets -/

/-- FRAMEFILL raises, or leaves a frame of at most 1920 slots to be encoded. -/
theorem frameFill_moves (a slots : Nat) (s : State) :
    EncMoves s (frameFill a slots s) ∨
    slots ≤ 1920 ∧ ∃ buf, WrittenBelow 1920 s.enc.frameBuf buf ∧
      frameFill a slots s = { s with enc := { s.enc with frameBuf := buf, pend := .encode slots } } := by
  obtain ⟨-, long⟩ | ⟨fits, buf, loop, filled⟩ | ⟨fits, buf, loop, failed⟩ := frameFill_cases a slots s
  · exact .inl (long ▸ encMoves_encRaised (by decide) ⟨rfl, rfl, rfl, rfl⟩)
  · exact .inr ⟨fits, buf, .fill fits (.inl loop), filled⟩
  · exact .inl (failed ▸ encMoves_raised 5 0 (by decide) rfl rfl (.fill fits (.inr loop)) (.refl _ _))

/-- The last transaction before a frame's packet of `len` bytes is done and left `t`: ENC.PKTBUF may have been written, and DIAG. -/
structure PacketReady (s : State) (len slots : Nat) (t : State) : Prop where
  ready : ReadyToPost s.enc len slots
  codec : t.opusEnc.inst = s.opusEnc.inst
  enc : ∃ buf diag diagV, WrittenBelow 4000 s.enc.pktBuf buf ∧
    t.enc = { s.enc with pktBuf := buf, diag := diag, diagV := diagV }

theorem packetReady_encode {s : State} {slots : Nat} {bytes : List Byte} (encode : s.enc.pend = .encode slots)
    (fits : bytes.length ≤ 4000) (rest : List (Answer (List Byte))) :
    PacketReady s bytes.length slots (encoded slots bytes rest s) :=
  ⟨.inl ⟨encode, fits⟩, rfl, _, _, _, .writeBlock _ fits, rfl⟩

theorem packetReady_range {s : State} {len slots : Nat} (range : s.enc.pend = .range len slots) (v : BitVec 32)
    (rest : List (BitVec 32)) : PacketReady s len slots (encRanged v rest s) :=
  ⟨.inr range, rfl, _, _, _, .refl _ _, rfl⟩

section AudioPhases
variable {s : State} {post : Nat → Nat → State → State}
  (posts : ∀ len slots t, PacketReady s len slots t → EncMoves s (post len slots t))
include posts

theorem encMoves_encodeFrame {slots : Nat} (phase : s.enc.phase = 7 ∨ s.enc.phase = 8 ∨ s.enc.phase = 9)
    (encode : s.enc.pend = .encode slots) : EncMoves s (encodeFrame post slots s) := by
  cases answer : s.opusEnc.script.encode with
  | nil => exact encMoves_of_eq (encodeFrame_of_unanswered answer post slots)
  | cons a rest =>
    cases a with
    | err reason =>
      rw [encodeFrame_of_err post slots answer]
      exact encMoves_encRaised (by decide) ⟨rfl, rfl, rfl, rfl⟩
    | ok bytes =>
      rcases Nat.lt_or_ge 4000 bytes.length with long | fits
      · rw [encodeFrame_of_lt post slots answer long]
        exact encMoves_encRaised (by decide) ⟨rfl, rfl, rfl, rfl⟩
      · rw [encodeFrame_of_le post slots answer fits]
        split_ifs
        · exact .encoded phase bytes.length slots encode fits _ (.writeBlock _ fits)
        · exact posts _ _ _ (packetReady_encode encode fits rest)

theorem encMoves_encodeRange {len slots : Nat} (range : s.enc.pend = .range len slots) :
    EncMoves s (encodeRange post len slots s) := by
  cases answer : s.opusEnc.script.range with
  | nil => exact encMoves_of_eq (encodeRange_of_unanswered answer post len slots)
  | cons v rest =>
    rw [encodeRange_of_value answer]
    exact posts _ _ _ (packetReady_range range v rest)

end AudioPhases

/-- E_MAIN and E_FINAL post from where the last transaction left ENC, or raise. -/
theorem encMoves_postAudio {s t : State} {len slots : Nat} (phase : s.enc.phase = 7 ∨ s.enc.phase = 9)
    (ready : PacketReady s len slots t) {m : BitVec 2} (marker : m ≠ 3) (gran : Option Nat) :
    EncMoves s (postAudio len m gran t) := by
  obtain ⟨buf, diag, diagV, packet, enc⟩ := ready.enc
  obtain ⟨g, -, posted⟩ | ⟨-, raised⟩ := postAudio_cases len m gran t
  · rw [posted, EncMoves, ready.codec, enc]
    exact .posted phase len slots ready.ready buf packet diag diagV m marker _
  · rw [raised]
    exact encMoves_raised 5 0 (by decide) (by rw [enc]) (by rw [enc]) (by rw [enc]; exact .refl _ _) (by rwa [enc])

theorem encMoves_mainPost {s t : State} {len slots : Nat} (phase : s.enc.phase = 7) (ready : PacketReady s len slots t) :
    EncMoves s (mainPost len slots t) := by
  refine encMoves_postAudio (.inl phase) ready ?_ _
  split_ifs <;> decide

theorem encMoves_finalPost {s t : State} {len slots : Nat} (phase : s.enc.phase = 9) (ready : PacketReady s len slots t) :
    EncMoves s (finalPost len slots t) := encMoves_postAudio (.inr phase) ready (by decide) _

theorem encMoves_tailPost {s t : State} {len slots : Nat} (phase : s.enc.phase = 8) (ready : PacketReady s len slots t) :
    EncMoves s (tailPost len slots t) := by
  obtain ⟨buf, diag, diagV, packet, enc⟩ := ready.enc
  have marker : ∀ p : Prop, [Decidable p] → (if p then Marker.endStream else Marker.normal) ≠ 3 := by
    intro p _
    split_ifs <;> decide
  obtain ⟨g, -, posted⟩ | ⟨-, raised⟩ := postAudio_cases len _ _ (t.withEnc { t.enc with pos := toU64 (t.enc.pos.toNat + slots) })
  · rw [tailPost, posted, EncMoves]
    simp only [State.withEnc_enc, State.withEnc_opusEnc, ready.codec, enc]
    exact .tailPosted phase len slots ready.ready buf packet diag diagV _ (marker _) _
  · rw [tailPost, raised]
    exact encMoves_raised 5 0 (by decide) (by simp [enc]) (by simp [enc]) (by simp [enc]; exact .refl _ _) (by simpa [enc])

/-! ### The phases -/

theorem encMoves_eOpen {s t : State} (phase : s.enc.phase = 2) (ran : exec .eOpen s = .next t) : EncMoves s t := by
  have construct : EncMoves s (constructEnc s) := by
    cases answer : s.opusEnc.script.construct with
    | nil => exact encMoves_of_eq (constructEnc_of_unanswered answer)
    | cons a rest =>
      cases a with
      | err reason => exact constructEnc_of_err answer ▸ encMoves_encRaised (by decide) ⟨rfl, rfl, rfl, rfl⟩
      | ok _ => exact constructEnc_of_ok answer ▸ .constructed phase _
  have bitrate : EncMoves s (setBitrate s) := by
    cases answer : s.opusEnc.script.bitrate with
    | nil => exact encMoves_of_eq (setBitrate_of_unanswered answer)
    | cons a rest =>
      cases a with
      | err reason => exact setBitrate_of_err answer ▸ encMoves_encRaised (by decide) ⟨rfl, rfl, rfl, rfl⟩
      | ok _ =>
        rw [setBitrate, answer]
        exact .opened phase _
  simp only [exec, execEOpen, Host.Outcome.next.injEq] at ran
  subst ran
  split
  · exact bitrate
  · exact construct

theorem encMoves_eLook {s t : State} (phase : s.enc.phase = 3) (ran : exec .eLook s = .next t) : EncMoves s t := by
  cases answer : s.opusEnc.script.lookahead with
  | nil =>
    cases (exec_eLook_of_unanswered answer).symm.trans ran
    exact .stay
  | cons a rest =>
    cases a with
    | err reason =>
      cases (exec_eLook_of_err answer).symm.trans ran
      exact encMoves_encRaised (by decide) ⟨rfl, rfl, rfl, rfl⟩
    | ok n =>
      rcases Nat.lt_or_ge 65535 n with long | fits
      · cases (exec_eLook_of_lt answer long).symm.trans ran
        exact encMoves_encRaised (by decide) ⟨rfl, rfl, rfl, rfl⟩
      · cases (exec_eLook_of_le answer fits).symm.trans ran
        have slots : n * unitKs s.params.unitMode s.enc.ch.toNat < 2 ^ 24 := by
          have unit : unitKs s.params.unitMode s.enc.ch.toNat < 2 ^ 8 := by
            cases s.params.unitMode
            · exact Nat.one_lt_two_pow (by decide)
            · exact s.enc.ch.isLt
          calc n * unitKs s.params.unitMode s.enc.ch.toNat ≤ 65535 * unitKs s.params.unitMode s.enc.ch.toNat :=
                Nat.mul_le_mul_right _ fits
            _ < 2 ^ 24 := by omega
        cases scaled : scale16 n s.enc.rate.toNat Config.refRate with
        | none =>
          simp only [lookRegs, lookaheadAsked, scaled]
          exact encMoves_encRaised (by decide) ⟨rfl, rfl, rfl, rfl⟩
        | some v =>
          simp only [lookRegs, lookaheadAsked, State.withEnc_enc, scaled]
          exact .looked phase _ _ _ slots

theorem encMoves_eSerial {s t : State} (phase : s.enc.phase = 4) (ran : exec .eSerial s = .next t) : EncMoves s t := by
  cases samples : s.randIn with
  | nil =>
    cases (exec_eSerial_of_sampleRand (sampleRand_of_unsupplied samples)).symm.trans ran
    exact .drew phase _
  | cons r rest =>
    cases (exec_eSerial_of_sampleRand (sampleRand_of_supplied samples)).symm.trans ran
    exact .drew phase _

theorem encMoves_eTags {s t : State} (phase : s.enc.phase = 6) (ran : exec .eTags s = .next t) : EncMoves s t := by
  rcases Nat.lt_or_ge 3984 s.params.vendor.length with long | short
  · cases (everyInstructionCompletes.2 s long).symm.trans ran
  · cases (exec_eTags_of_le short).symm.trans ran
    exact .headerPosted (.inr phase) _ _ (.writeBlock _ (by rw [length_commentHeaderSpec]; omega)) (by omega)

theorem encMoves_eMain {s t : State} (phase : s.enc.phase = 7) (ran : exec .eMain s = .next t) : EncMoves s t := by
  have start : EncMoves s (mainStart s) := by
    by_cases zero : s.enc.rate.toNat / 50 * s.enc.ch.toNat = 0
    · rw [← frameSamples_eq] at zero
      rw [show mainStart s = raise .enc .assertFail 0 s from if_pos zero]
      exact encMoves_raise ..
    · obtain ⟨fs, fsz, max, hfs, hfsz, hmax, started⟩ := mainStart_of_ne zero
      exact started ▸ .mainStarted phase fs fsz max hfs hfsz hmax
  simp only [exec, execEMain, Host.Outcome.next.injEq] at ran
  subst ran
  split
  · rcases Nat.lt_or_ge s.enc.idx.toNat s.enc.max.toNat with under | done
    · rw [mainLoop_of_lt under]
      obtain moves | ⟨-, buf, frame, filled⟩ := frameFill_moves (s.enc.idx.toNat * s.enc.fsz.toNat) s.enc.fsz.toNat s
      · exact moves
      · exact filled ▸ .mainFilled phase ‹_› under buf frame
    · exact mainLoop_of_le done ▸ .mainEnded phase ‹_›
  · exact encMoves_encodeFrame (fun _ _ _ => encMoves_mainPost phase) (.inl phase) ‹_›
  · exact encMoves_encodeRange (fun _ _ _ => encMoves_mainPost phase) ‹_›
  · exact start

theorem encMoves_eTail {s t : State} (phase : s.enc.phase = 8) (ran : exec .eTail s = .next t) : EncMoves s t := by
  simp only [exec, execETail, Host.Outcome.next.injEq] at ran
  subst ran
  split
  · exact encMoves_encodeFrame (fun _ _ _ => encMoves_tailPost phase) (.inr (.inl phase)) ‹_›
  · exact encMoves_encodeRange (fun _ _ _ => encMoves_tailPost phase) ‹_›
  · cases picked : tailPick s.enc.rate.toNat s.enc.ch.toNat s.enc.pos.toNat s.enc.total.toNat with
    | none => exact tailLoop_of_none picked ▸ .tailEnded phase picked
    | some d =>
      rw [tailLoop_of_some picked]
      obtain moves | ⟨fits, buf, frame, filled⟩ := frameFill_moves s.enc.pos.toNat (d * s.enc.ch.toNat) s
      · exact moves
      · exact filled ▸ .tailFilled phase d picked fits buf frame

theorem encMoves_eFinal {s t : State} (phase : s.enc.phase = 9) (ran : exec .eFinal s = .next t) : EncMoves s t := by
  simp only [exec, execEFinal, Host.Outcome.next.injEq] at ran
  subst ran
  split
  · exact encMoves_encodeFrame (fun _ _ _ => encMoves_finalPost phase) (.inr (.inr phase)) ‹_›
  · exact encMoves_encodeRange (fun _ _ _ => encMoves_finalPost phase) ‹_›
  · rcases Nat.lt_or_ge s.enc.pos.toNat s.enc.total.toNat with remainder | none
    · rw [finalStart_of_lt remainder]
      obtain moves | ⟨-, buf, frame, filled⟩ :=
        frameFill_moves s.enc.pos.toNat (s.enc.rate.toNat / 400 * s.enc.ch.toNat) s
      · exact moves
      · exact filled ▸ .finalFilled phase _ buf frame
    · exact finalStart_of_le none ▸ .completed _ _

/-- EMIT, by the phase that has posted the packet. -/
theorem encMoves_emit {s : State} {len : Nat} {m : BitVec 2} {g : BitVec 64} (write : s.enc.pend = .write len m g) :
    EncMoves s (emit m s) := by
  cases answer : s.oggWr.script with
  | nil => exact encMoves_of_eq (emit_of_unanswered answer m)
  | cons a rest =>
    cases a with
    | err reason => exact emit_of_err answer ▸ encMoves_encRaised (by decide) ⟨rfl, rfl, rfl, rfl⟩
    | ok _ =>
      have emitted : emit m s = afterWrite (packetAccepted m (postedPacket m s) rest s) := emit_of_ok answer
      rw [emitted]
      by_cases listed : s.enc.phase ∈ [5, 6, 7, 9]
      · simp only [List.mem_cons, List.not_mem_nil, or_false] at listed
        obtain head | tags | main | final := listed
        · exact afterWrite_of_eHead (s := packetAccepted ..) head ▸ .headerWritten _ 6 (.inl ⟨head, rfl⟩)
        · exact afterWrite_of_eTags (s := packetAccepted ..) tags ▸ .headerWritten _ 7 (.inr ⟨tags, rfl⟩)
        · exact afterWrite_of_eMain (s := packetAccepted ..) main ▸ .mainWritten main len m g write _
        · exact afterWrite_of_eFinal (s := packetAccepted ..) final ▸ .completed _ _
      · exact afterWrite_of_other (s := packetAccepted ..) listed ▸ .written _

/-! ### Every step -/

theorem encMoves_illegalCommand {s t : State} (ran : exec (.illegalCommand .enc) s = .next t) : EncMoves s t := by
  by_cases busy : status .enc s = .busy
  · cases (exec_illegalCommand_of_busy busy).symm.trans ran
    exact .stay
  · cases (exec_illegalCommand_of_free busy).symm.trans ran
    exact encMoves_raise ..

theorem encMoves_encode {s t : State} {ch : BitVec 8} {rate : BitVec 32} (ran : exec (.encode ch rate) s = .next t) :
    EncMoves s t := by
  by_cases busy : status .enc s = .busy
  · cases (exec_encode_of_busy busy).symm.trans ran
    exact .stay
  · rcases Nat.lt_or_ge 2 ch.toNat with illegal | legal
    · cases (exec_encode_of_lt busy illegal).symm.trans ran
      exact encMoves_encRaised (by decide) ⟨rfl, rfl, rfl, rfl⟩
    · cases (exec_encode_of_le busy legal).symm.trans ran
      exact .accepted ch rate legal

theorem EncWord.moves {s t : State} {i : Instr} (word : EncWord s i) (ran : exec i s = .next t) : EncMoves s t := by
  cases word with
  | endMark len m g write marker =>
    cases (exec_marker marker s).symm.trans ran
    exact encMoves_emit write
  | errCode c info _ error =>
    simp only [List.mem_cons, List.not_mem_nil, or_false] at error
    obtain rfl | rfl | rfl | rfl | rfl | rfl | rfl := error
    · cases ran
      exact .errCleared
    · cases ran
      exact encMoves_raise ..
    · cases ran
      exact encMoves_raise ..
    · cases ran
      exact encMoves_raise ..
    · cases ran
      exact encMoves_raise ..
    · cases ran
      exact encMoves_raise ..
    · exact encMoves_illegalCommand ran
  | phase rule =>
    simp only [List.mem_cons, Prod.mk.injEq, List.not_mem_nil, or_false] at rule
    obtain ⟨-, rfl⟩ | ⟨phase, rfl⟩ | ⟨phase, rfl⟩ | ⟨phase, rfl⟩ | ⟨phase, rfl⟩ | ⟨phase, rfl⟩ | ⟨phase, rfl⟩ | ⟨phase, rfl⟩ |
      ⟨phase, rfl⟩ | ⟨phase, rfl⟩ | ⟨-, rfl⟩ | ⟨-, rfl⟩ := rule
    · cases ran
      exact .stay
    · by_cases supported : s.enc.rate.toNat ∈ Config.rates
      · cases (exec_eValidate_of_supported supported).symm.trans ran
        exact .validated phase ((rateOk_iff _).mpr supported)
      · cases (exec_eValidate_of_unsupported supported).symm.trans ran
        exact encMoves_encRaised (by decide) ⟨rfl, rfl, rfl, rfl⟩
    · exact encMoves_eOpen phase ran
    · exact encMoves_eLook phase ran
    · exact encMoves_eSerial phase ran
    · cases (exec_eHead s).symm.trans ran
      exact .headerPosted (.inl phase) _ _ (.writeBlock _ (by rw [length_idHeaderSpec]; decide)) (by decide)
    · exact encMoves_eTags phase ran
    · exact encMoves_eMain phase ran
    · exact encMoves_eTail phase ran
    · exact encMoves_eFinal phase ran
    · cases ran
      exact .completed _ _
    · cases ran
      exact .stay

/-- Every step is a move of ENC; a step of DEC, or of CONV, lets it stay. -/
theorem encMoves_of_step {s t : State} (ran : step s = .next t) : EncMoves s t := by
  obtain ⟨sched, inputs, stepped⟩ := stepped_of_step ran
  have stays : ∀ u : State, u.enc = s.enc → u.opusEnc = s.opusEnc → EncMoves s u := fun u enc codec => by
    rw [EncMoves, enc, codec]
    exact .stay
  cases stepped with
  | idle same => exact stays t (congrArg (·.enc) same) (congrArg (·.opusEnc) same)
  | hostOp op rest _ _ ran =>
    by_cases isReset : op = .reset
    · subst isReset
      cases ran
      exact .reset
    · have frame := hostOp_frame isReset ran
      obtain ⟨n, raced, keepsN, enc⟩ := frame.enc
      rw [EncMoves, enc, frame.encInst]
      exact .hostWrote n raced keepsN
  | encCmd w rest _ _ ran =>
    obtain ⟨ch, rate, command⟩ | illegal := decodeEncCmd_cases w
    · rw [command] at ran
      have moves := encMoves_encode ran
      exact moves
    · rw [illegal] at ran
      have moves := encMoves_illegalCommand ran
      exact moves
  | decCmd w rest _ _ ran =>
    have part := exec_eq_withPartOf (pipeOf_decodeDecCmd w) ran
    exact stays t (congrArg (·.enc) part) (congrArg (·.opusEnc) part)
  | conv out driven => exact stays t (congrArg (·.enc) driven) (congrArg (·.opusEnc) driven)
  | enc i word ran => exact word.moves ran
  | dec i word ran =>
    have part := exec_eq_withPartOf word.pipeOf ran
    exact stays t (congrArg (·.enc) part) (congrArg (·.opusEnc) part)

end Sys2Proof.Proofs
end

section
/-! PROOF. The encoder's timeline is kept by every move of ENC (43_encode.md R161 to R172). -/

namespace Sys2Proof.Proofs

open Sys2Proof.Machine

/-! ### The timeline, phase by phase -/

/-- What the timeline says in every phase, whatever is pending. -/
structure SetUp (e : Enc) : Prop where
  validated : 2 ≤ e.phase.toNat → e.phase.toNat ≤ 9 → rateOk e.rate.toNat = true ∧ (e.ch = 1 ∨ e.ch = 2)
  cmdCh_le : e.cmdCh.toNat ≤ 2
  total_eq : 4 ≤ e.phase.toNat → e.phase.toNat ≤ 9 → e.n.toNat + e.skipSl.toNat < 2 ^ 64 →
    e.total.toNat = e.n.toNat + e.skipSl.toNat

/-- Outside the audio phases the timeline says no more. -/
theorem timelineInv_of_noAudio {e : Enc} (p : BitVec 4) (setUp : SetUp e) (phase : e.phase = p)
    (noAudio : p.toNat < 7 ∨ 9 < p.toNat) : TimelineInv e := by
  rw [← phase] at noAudio
  constructor
  case validated => exact setUp.validated
  case cmdCh_le => exact setUp.cmdCh_le
  case total_eq => exact setUp.total_eq
  all_goals exact fun _ => by omega

/-- Outside an invocation ENC has no rate, channels or total to speak of. -/
theorem setUp_of_rest {e : Enc} (p : BitVec 4) (cmdCh : e.cmdCh.toNat ≤ 2) (phase : e.phase = p)
    (rest : p.toNat < 2 ∨ 9 < p.toNat) : SetUp e := by
  rw [← phase] at rest
  exact ⟨fun _ => by omega, cmdCh, fun _ => by omega⟩

/-- Once the timeline is computed, what is said of it does not depend on the phase. -/
theorem setUp_of_running {e e' : Enc} {p : BitVec 4} (inv : TimelineInv e) (phase : e.phase = p)
    (running : 4 ≤ p.toNat ∧ p.toNat ≤ 9)
    (same : e'.rate = e.rate ∧ e'.ch = e.ch ∧ e'.cmdCh = e.cmdCh ∧ e'.total = e.total ∧ e'.n = e.n ∧ e'.skipSl = e.skipSl) :
    SetUp e' := by
  obtain ⟨rate, ch, cmdCh, total, n, skipSl⟩ := same
  obtain ⟨computed, unfinished⟩ := phase ▸ running
  constructor
  case validated => exact fun _ _ => rate ▸ ch ▸ inv.validated (by omega) unfinished
  case cmdCh_le => exact cmdCh ▸ inv.cmdCh_le
  case total_eq => exact fun _ _ => total ▸ n ▸ skipSl ▸ inv.total_eq computed unfinished

/-- E_MAIN: before its registers are set nothing is said, at the loop test they are sound, and with a frame under way its index
is below MAX. -/
theorem timelineInv_of_main {e : Enc} (setUp : SetUp e) (phase : e.phase = 7) (loop : e.pend = .loop → MainSound e)
    (encode : ∀ slots, e.pend = .encode slots → MainSound e ∧ e.idx.toNat < e.max.toNat ∧ slots = e.fsz.toNat)
    (range : ∀ len slots, e.pend = .range len slots → MainSound e ∧ e.idx.toNat < e.max.toNat)
    (write : ∀ len m g, e.pend = .write len m g → MainSound e ∧ e.idx.toNat < e.max.toNat) : TimelineInv e where
  validated := setUp.validated
  cmdCh_le := setUp.cmdCh_le
  total_eq := setUp.total_eq
  main_loop := fun _ => loop
  main_encode := fun _ => encode
  main_range := fun _ => range
  main_write := fun _ => write
  tail_pos := by rw [phase]; exact nofun
  tail_encode := by rw [phase]; exact nofun
  tail_range := by rw [phase]; exact nofun
  final_pos := by rw [phase]; exact nofun

theorem timelineInv_of_tail {e : Enc} (setUp : SetUp e) (phase : e.phase = 8)
    (pos : e.pos.toNat ≤ e.total.toNat ∧ e.total.toNat - e.pos.toNat < e.rate.toNat / 50 * e.ch.toNat)
    (encode : ∀ slots, e.pend = .encode slots → e.pos.toNat + slots ≤ e.total.toNat ∧ slots ≤ 1920)
    (range : ∀ len slots, e.pend = .range len slots → e.pos.toNat + slots ≤ e.total.toNat) : TimelineInv e where
  validated := setUp.validated
  cmdCh_le := setUp.cmdCh_le
  total_eq := setUp.total_eq
  main_loop := by rw [phase]; exact nofun
  main_encode := by rw [phase]; exact nofun
  main_range := by rw [phase]; exact nofun
  main_write := by rw [phase]; exact nofun
  tail_pos := fun _ => pos
  tail_encode := fun _ => encode
  tail_range := fun _ => range
  final_pos := by rw [phase]; exact nofun

theorem timelineInv_of_final {e : Enc} (setUp : SetUp e) (phase : e.phase = 9)
    (pos : e.pos.toNat ≤ e.total.toNat ∧ e.total.toNat - e.pos.toNat < e.rate.toNat / 400 * e.ch.toNat) : TimelineInv e where
  validated := setUp.validated
  cmdCh_le := setUp.cmdCh_le
  total_eq := setUp.total_eq
  main_loop := by rw [phase]; exact nofun
  main_encode := by rw [phase]; exact nofun
  main_range := by rw [phase]; exact nofun
  main_write := by rw [phase]; exact nofun
  tail_pos := by rw [phase]; exact nofun
  tail_encode := by rw [phase]; exact nofun
  tail_range := by rw [phase]; exact nofun
  final_pos := fun _ => pos

/-! ### The moves that write the timeline's registers -/

/-- With nothing pending that the timeline speaks of, and the timeline's registers as they were, nothing is lost. -/
theorem timelineInv_of_quiet {e e' : Enc} (inv : TimelineInv e)
    (same : e'.phase = e.phase ∧ e'.rate = e.rate ∧ e'.ch = e.ch ∧ e'.cmdCh = e.cmdCh ∧ e'.total = e.total ∧ e'.n = e.n ∧
      e'.skipSl = e.skipSl ∧ e'.pos = e.pos)
    (quiet : e'.pend = .start ∨ e'.pend = .bitrate) : TimelineInv e' := by
  obtain ⟨phase, rate, ch, cmdCh, total, n, skipSl, pos⟩ := same
  constructor
  case validated => rw [phase, rate, ch]; exact inv.validated
  case cmdCh_le => rw [cmdCh]; exact inv.cmdCh_le
  case total_eq => rw [phase, n, skipSl, total]; exact inv.total_eq
  case tail_pos => rw [phase, pos, total, rate, ch]; exact inv.tail_pos
  case final_pos => rw [phase, pos, total, rate, ch]; exact inv.final_pos
  all_goals obtain idle | idle := quiet <;> rw [idle] <;> exact fun _ => nofun

/-- E_LOOK's sum fits 64 bits where the timeline asks for it. -/
theorem total_of_looked {n : BitVec 64} {slots : Nat} (short : slots < 2 ^ 24)
    (fits : n.toNat + (toU64 slots).toNat < 2 ^ 64) : (toU64 (n.toNat + slots)).toNat = n.toNat + (toU64 slots).toNat := by
  rw [toU64_toNat slots (by omega)] at fits ⊢
  exact toU64_toNat _ fits

/-- The frames that E_MAIN counts end within TOTAL, with less than one frame left. -/
theorem pos_of_mainEnded {e : Enc} (sound : MainSound e) (rate : rateOk e.rate.toNat = true) (ch : e.ch = 1 ∨ e.ch = 2) :
    (toU64 (e.max.toNat * e.fsz.toNat)).toNat ≤ e.total.toNat ∧
      e.total.toNat - (toU64 (e.max.toNat * e.fsz.toNat)).toNat < e.rate.toNat / 50 * e.ch.toNat := by
  obtain ⟨hfs, hfsz, hmax, -⟩ := sound
  rw [hfs] at hfsz
  have within : e.max.toNat * e.fsz.toNat ≤ e.total.toNat := hmax ▸ Nat.div_mul_le_self ..
  have positive : 0 < e.fsz.toNat :=
    Nat.pos_of_ne_zero (hfsz ▸ frameSlots_ne_zero ((rateOk_iff _).mp rate) ch)
  have left : e.total.toNat < e.max.toNat * e.fsz.toNat + e.fsz.toNat := hmax ▸ Nat.lt_div_mul_add positive
  rw [toU64_toNat _ (Nat.lt_of_le_of_lt within e.total.isLt), ← hfsz]
  omega

/-- E_TAIL's frame ends within TOTAL, and the position moves on to its end. -/
theorem pos_of_tailPosted {e : Enc} (inv : TimelineInv e) (phase : e.phase = 8) {len slots : Nat}
    (ready : ReadyToPost e len slots) :
    (toU64 (e.pos.toNat + slots)).toNat ≤ e.total.toNat ∧
      e.total.toNat - (toU64 (e.pos.toNat + slots)).toNat < e.rate.toNat / 50 * e.ch.toNat := by
  have inTail : e.phase.toNat = 8 := congrArg BitVec.toNat phase
  have within : e.pos.toNat + slots ≤ e.total.toNat := by
    obtain ⟨encode, -⟩ | range := ready
    · exact (inv.tail_encode inTail slots encode).1
    · exact inv.tail_range inTail len slots range
  obtain ⟨-, left⟩ := inv.tail_pos inTail
  rw [toU64_toNat _ (Nat.lt_of_le_of_lt within e.total.isLt)]
  omega

theorem mainSound_of_ready {e : Enc} (inv : TimelineInv e) (phase : e.phase = 7) {len slots : Nat}
    (ready : ReadyToPost e len slots) : MainSound e ∧ e.idx.toNat < e.max.toNat := by
  have inMain : e.phase.toNat = 7 := congrArg BitVec.toNat phase
  obtain ⟨encode, -⟩ | range := ready
  · obtain ⟨sound, under, -⟩ := inv.main_encode inMain slots encode
    exact ⟨sound, under⟩
  · exact inv.main_range inMain len slots range

/-! ### Every move -/

theorem EncMove.keeps_timeline {e e' : Enc} {c c' : Option EncInst} (move : EncMove e c e' c') (inv : TimelineInv e) :
    TimelineInv e' := by
  cases move with
  | stay => exact inv
  | hostWrote n raced keepsN =>
    have total : 4 ≤ e.phase.toNat → e.phase.toNat ≤ 9 → n.toNat + e.skipSl.toNat < 2 ^ 64 →
        e.total.toNat = n.toNat + e.skipSl.toNat := by
      intro looked running
      have busy : statusWithDone 10 e.phase = .busy := by
        by_contra free
        obtain rest | rest | rest := (statusWithDone_ne_busy_iff 10 e.phase).mp free <;> rw [rest] at looked running
        · exact absurd looked (by decide)
        · exact absurd running (by decide)
        · exact absurd running (by decide)
      rw [keepsN busy]
      exact inv.total_eq looked running
    exact { inv with total_eq := total }
  | reset => exact timelineInv_of_noAudio 0 (setUp_of_rest 0 (by decide) rfl (by decide)) rfl (by decide)
  | accepted ch rate legal => exact timelineInv_of_noAudio 1 (setUp_of_rest 1 legal rfl (by decide)) rfl (by decide)
  | raised written code info legal cmdCh ch frame packet =>
    exact timelineInv_of_noAudio 15 (setUp_of_rest 15 (cmdCh ▸ inv.cmdCh_le) rfl (by decide)) rfl (by decide)
  | errCleared => exact timelineInv_of_quiet inv ⟨rfl, rfl, rfl, rfl, rfl, rfl, rfl, rfl⟩ (.inl rfl)
  | validated phase rate =>
    have channels : (if e.cmdCh = 0 then 1 else e.cmdCh) = 1 ∨ (if e.cmdCh = 0 then 1 else e.cmdCh) = 2 := by
      have two := inv.cmdCh_le
      revert two
      generalize e.cmdCh = ch
      revert ch
      decide
    exact timelineInv_of_noAudio 2 ⟨fun _ _ => ⟨rate, channels⟩, inv.cmdCh_le, nofun⟩ rfl (by decide)
  | constructed phase c' => exact timelineInv_of_quiet inv ⟨rfl, rfl, rfl, rfl, rfl, rfl, rfl, rfl⟩ (.inr rfl)
  | opened phase c' =>
    have validated := inv.validated (by rw [phase]; decide) (by rw [phase]; decide)
    exact timelineInv_of_noAudio 3 ⟨fun _ _ => validated, inv.cmdCh_le, nofun⟩ rfl (by decide)
  | looked phase skip skip48 slots short =>
    have validated := inv.validated (by rw [phase]; decide) (by rw [phase]; decide)
    exact timelineInv_of_noAudio 4 ⟨fun _ _ => validated, inv.cmdCh_le, fun _ _ => total_of_looked short⟩ rfl (by decide)
  | drew phase serial =>
    exact timelineInv_of_noAudio 5 (setUp_of_running inv phase (by decide) ⟨rfl, rfl, rfl, rfl, rfl, rfl⟩) rfl (by decide)
  | headerPosted phase buf len packet fits =>
    have setUp' : SetUp { e with pktBuf := buf, pend := .write len 1 0 } := ⟨inv.validated, inv.cmdCh_le, inv.total_eq⟩
    obtain head | tags := phase
    · exact timelineInv_of_noAudio 5 setUp' head (by decide)
    · exact timelineInv_of_noAudio 6 setUp' tags (by decide)
  | mainStarted phase fs fsz max hfs hfsz hmax =>
    exact timelineInv_of_main ⟨inv.validated, inv.cmdCh_le, inv.total_eq⟩ phase
      (fun _ => ⟨hfs, hfsz, hmax, Nat.zero_le _⟩) nofun nofun nofun
  | mainFilled phase loop under buf frame =>
    have sound : MainSound e := inv.main_loop (congrArg BitVec.toNat phase) loop
    refine timelineInv_of_main ⟨inv.validated, inv.cmdCh_le, inv.total_eq⟩ phase nofun ?_ nofun nofun
    rintro slots ⟨⟩
    exact ⟨sound, under, rfl⟩
  | mainEnded phase loop =>
    have validated := inv.validated (by rw [phase]; decide) (by rw [phase]; decide)
    have sound : MainSound e := inv.main_loop (congrArg BitVec.toNat phase) loop
    exact timelineInv_of_tail (setUp_of_running inv phase (by decide) ⟨rfl, rfl, rfl, rfl, rfl, rfl⟩) rfl
      (pos_of_mainEnded sound validated.1 validated.2) nofun nofun
  | tailFilled phase d picked fits buf frame =>
    have within : e.pos.toNat + d * e.ch.toNat ≤ e.total.toNat := (tailPick_eq_some _ _ _ _ _ picked).2
    refine timelineInv_of_tail ⟨inv.validated, inv.cmdCh_le, inv.total_eq⟩ phase
      (inv.tail_pos (congrArg BitVec.toNat phase)) ?_ nofun
    rintro slots ⟨⟩
    exact ⟨within, fits⟩
  | tailEnded phase none =>
    obtain ⟨within, -⟩ := inv.tail_pos (congrArg BitVec.toNat phase)
    have smallest := tailPick_eq_none _ _ _ _ none (e.rate.toNat / 400) (by simp [tailDurations])
    exact timelineInv_of_final (setUp_of_running inv phase (by decide) ⟨rfl, rfl, rfl, rfl, rfl, rfl⟩) rfl
      ⟨within, by simp only; omega⟩
  | finalFilled phase slots buf frame =>
    exact timelineInv_of_final ⟨inv.validated, inv.cmdCh_le, inv.total_eq⟩ phase
      (inv.final_pos (congrArg BitVec.toNat phase))
  | encoded phase len slots encode fits buf packet =>
    have setUp' : SetUp { e with pktBuf := buf, pend := .range len slots } := ⟨inv.validated, inv.cmdCh_le, inv.total_eq⟩
    obtain main | tail | final := phase
    · have sound := mainSound_of_ready inv main (.inl ⟨encode, fits⟩)
      exact timelineInv_of_main setUp' main nofun nofun (fun _ _ _ => sound) nofun
    · have inTail : e.phase.toNat = 8 := congrArg BitVec.toNat tail
      refine timelineInv_of_tail setUp' tail (inv.tail_pos inTail) nofun ?_
      rintro _ _ ⟨⟩
      exact (inv.tail_encode inTail slots encode).1
    · exact timelineInv_of_final setUp' final (inv.final_pos (congrArg BitVec.toNat final))
  | posted phase len slots ready buf packet diag diagV m marker g =>
    have setUp' : SetUp { e with pktBuf := buf, diag := diag, diagV := diagV, pend := .write len m g } :=
      ⟨inv.validated, inv.cmdCh_le, inv.total_eq⟩
    obtain main | final := phase
    · have sound := mainSound_of_ready inv main ready
      exact timelineInv_of_main setUp' main nofun nofun nofun fun _ _ _ _ => sound
    · exact timelineInv_of_final setUp' final (inv.final_pos (congrArg BitVec.toNat final))
  | tailPosted phase len slots ready buf packet diag diagV m marker g =>
    exact timelineInv_of_tail ⟨inv.validated, inv.cmdCh_le, inv.total_eq⟩ phase (pos_of_tailPosted inv phase ready) nofun nofun
  | headerWritten eos next phase =>
    obtain ⟨head, rfl⟩ | ⟨tags, rfl⟩ := phase
    · exact timelineInv_of_noAudio 6 (setUp_of_running inv head (by decide) ⟨rfl, rfl, rfl, rfl, rfl, rfl⟩) rfl (by decide)
    · exact timelineInv_of_main (setUp_of_running inv tags (by decide) ⟨rfl, rfl, rfl, rfl, rfl, rfl⟩) rfl nofun nofun nofun nofun
  | mainWritten phase len m g write eos =>
    obtain ⟨⟨hfs, hfsz, hmax, -⟩, under⟩ := inv.main_write (congrArg BitVec.toNat phase) len m g write
    have next : (toU64 (e.idx.toNat + 1)).toNat = e.idx.toNat + 1 :=
      toU64_toNat _ (Nat.lt_of_le_of_lt under e.max.isLt)
    exact timelineInv_of_main ⟨inv.validated, inv.cmdCh_le, inv.total_eq⟩ phase
      (fun _ => ⟨hfs, hfsz, hmax, next.trans_le under⟩) nofun nofun nofun
  | written eos => exact timelineInv_of_quiet inv ⟨rfl, rfl, rfl, rfl, rfl, rfl, rfl, rfl⟩ (.inl rfl)
  | completed eos pos =>
    exact timelineInv_of_noAudio 10 (setUp_of_rest 10 inv.cmdCh_le rfl (by decide)) rfl (by decide)

/-- Settles O59: every step is a move of ENC, and every move keeps the timeline. -/
theorem everyStepKeepsTheTimeline : Obligations.EveryStepKeepsTheTimeline :=
  fun _ _ inv ran => (encMoves_of_step ran).keeps_timeline inv

end Sys2Proof.Proofs
end

section
/-! PROOF. What one step can do to DEC, once (42_decode.md R130 to R140; 60_exceptions.md R203), and that its output stays whole
(42_decode.md R142 (a)). -/

namespace Sys2Proof.Proofs

open Sys2Proof.Machine

/-! ### The moves -/

/-- What one step can do to DEC's registers, to the codec that OPUSDEC holds and to PCM_OUT. -/
inductive DecMove (d : Dec) (c : Option DecInst) (out : Memory 16) : Dec → Option DecInst → Memory 16 → Prop
  | stay : DecMove d c out d c out
  | reset : DecMove d c out Dec.reset none []
  | accepted (rate : BitVec 32) :
      DecMove d c out { d with err := 0, errInfo := 0, diagV := false, outLen := 0, outCh := 0, tRate := rate, phase := 1,
                               pend := .start } c []
  /-- `raise`, after whatever the rule has written. -/
  | raised (written : Dec) (code : BitVec 3) (info : BitVec 32) (legal : code ≠ 7) (ch : written.ch = d.ch)
      (outLen : written.outLen = d.outLen) (pktIn : written.pktIn = d.pktIn)
      (frame : WrittenBelow (5760 * d.ch.toNat) d.scratch written.scratch) :
      DecMove d c out { written with err := code, errInfo := info, phase := 15, pend := .start } none out
  | errCleared : DecMove d c out { d with err := 0, errInfo := 0, pend := .start } c out
  | read (next : DecPend) (asks : d.phase = 1 ∧ next = .head ∨ d.phase = 3 ∧ next = .tags ∨ d.phase = 4 ∧ next = .packet)
      (bytes : List Byte) (len : BitVec 32) (gran : BitVec 64) (last : Bool) :
      DecMove d c out { d with pktIn := Memory.writeBlock [] 0 bytes, pktLen := len, pktGran := gran, pktLast := last,
                               pend := next } c out
  | headTaken (read : d.pend = .head) (ch : BitVec 8) (channels : ch = 1 ∨ ch = 2) (preSkip48 gain : BitVec 16) :
      DecMove d c out { d with ch := ch, preSkip48 := preSkip48, gain := gain, phase := 2, pend := .start } c out
  | constructed (phase : d.phase = 2) (c' : Option DecInst) : DecMove d c out { d with pend := .gain } c' out
  | opened (phase : d.phase = 2) (skipRem : BitVec 16) (c' : Option DecInst) :
      DecMove d c out { d with skipRem := skipRem, totalDec := 0, phase := 3, pend := .start } c' out
  | tagsTaken : DecMove d c out { d with phase := 4, pend := .start } c out
  | decoded (phase : d.phase = 4) (nDec : BitVec 16) (buf : Memory 16)
      (frame : WrittenBelow (5760 * d.ch.toNat) d.scratch buf) :
      DecMove d c out { d with nDec := nDec, scratch := buf, pend := .range } c out
  | appended (phase : d.phase = 4) (nDec skipRem : BitVec 16) (buf : Memory 16) (diag : BitVec 32) (diagV : Bool)
      (total : BitVec 64) (frame : WrittenBelow (5760 * d.ch.toNat) d.scratch buf) (frames : Nat) (short : frames < 2 ^ 16)
      (elems : List Sample) (length : elems.length = frames * d.ch.toNat) :
      DecMove d c out { d with nDec := nDec, skipRem := skipRem, scratch := buf, diag := diag, diagV := diagV,
                               totalDec := total, outLen := toU64 (d.outLen.toNat + frames * d.ch.toNat), pend := .start }
        c (Memory.writeBlock out d.outLen.toNat elems)
  /-- D_DONE, whether entered or rested in. -/
  | completed (outCh : BitVec 16) : DecMove d c out { d with phase := 5, pend := .start, outCh := outCh } none out

/-- The move of DEC between two states of the machine. -/
def DecMoves (s t : State) : Prop := DecMove s.dec s.opusDec.inst s.pcmOut t.dec t.opusDec.inst t.pcmOut

theorem decMoves_of_eq {s t : State} (same : t = s) : DecMoves s t := same ▸ .stay

/-! ### Raising -/

/-- Raising with no buffer written, and neither the channels nor OUTLEN changed. -/
theorem decMoves_decRaised {s u : State} {code : BitVec 3} {info : BitVec 32} (legal : code ≠ 7)
    (same : u.dec.ch = s.dec.ch ∧ u.dec.outLen = s.dec.outLen ∧ u.dec.pktIn = s.dec.pktIn ∧ u.dec.scratch = s.dec.scratch ∧
      u.pcmOut = s.pcmOut) : DecMoves s (decRaised code info u) := by
  obtain ⟨ch, outLen, pktIn, scratch, pcmOut⟩ := same
  have move := DecMove.raised (c := s.opusDec.inst) (out := s.pcmOut) u.dec code info legal ch outLen pktIn
    (scratch ▸ WrittenBelow.refl _ _)
  rw [← pcmOut] at move
  rw [DecMoves, ← pcmOut]
  exact move

theorem decMoves_raise (e : ErrKind) (info : BitVec 32) (s : State) : DecMoves s (raise .dec e info s) :=
  decMoves_decRaised (code_ne_seven e) ⟨rfl, rfl, rfl, rfl, rfl⟩

/-! ### Reading, opening -/

theorem decMoves_readNextPacket {s : State} {next : DecPend} {onExhausted : State → State}
    (asks : s.dec.phase = 1 ∧ next = .head ∨ s.dec.phase = 3 ∧ next = .tags ∨ s.dec.phase = 4 ∧ next = .packet)
    (exhausted : ∀ rd, DecMoves s (onExhausted { s with oggRd := rd })) :
    DecMoves s (readNextPacket next onExhausted s) := by
  obtain ⟨-, same⟩ | ⟨reason, rest, -, err⟩ | ⟨rest, -, ends⟩ | ⟨bytes, gran, last, rest, -, read⟩ :=
    readNextPacket_cases next onExhausted s
  · exact decMoves_of_eq same
  · exact err ▸ decMoves_decRaised (by decide) ⟨rfl, rfl, rfl, rfl, rfl⟩
  · exact ends ▸ exhausted _
  · exact read ▸ .read next asks bytes _ gran last

theorem decMoves_constructDec {s : State} (phase : s.dec.phase = 2) : DecMoves s (constructDec s) := by
  by_cases supported : s.dec.tRate.toNat ∈ Config.rates
  · cases answer : s.opusDec.script.construct with
    | nil => exact decMoves_of_eq (constructDec_of_unanswered supported answer)
    | cons a rest =>
      cases a with
      | err reason => exact constructDec_of_err supported answer ▸ decMoves_decRaised (by decide) ⟨rfl, rfl, rfl, rfl, rfl⟩
      | ok _ => exact constructDec_of_ok supported answer ▸ .constructed phase _
  · exact constructDec_of_unsupported supported ▸ decMoves_decRaised (by decide) ⟨rfl, rfl, rfl, rfl, rfl⟩

theorem decMoves_setGain {s : State} (phase : s.dec.phase = 2) : DecMoves s (setGain s) := by
  cases answer : s.opusDec.script.gain with
  | nil => exact decMoves_of_eq (setGain_of_unanswered answer)
  | cons a rest =>
    cases a with
    | err reason => exact setGain_of_err answer ▸ decMoves_decRaised (by decide) ⟨rfl, rfl, rfl, rfl, rfl⟩
    | ok _ =>
      rw [setGain, answer]
      simp only [openCounters, opusDecDid, State.withOpusDec_dec]
      cases scale16 s.dec.preSkip48.toNat Config.refRate s.dec.tRate.toNat with
      | none => exact decMoves_decRaised (by decide) ⟨rfl, rfl, rfl, rfl, rfl⟩
      | some v => exact .opened phase _ _

theorem decMoves_dOpen {s t : State} (phase : s.dec.phase = 2) (ran : exec .dOpen s = .next t) : DecMoves s t := by
  simp only [exec, execDOpen, Host.Outcome.next.injEq] at ran
  subst ran
  split
  · exact decMoves_setGain phase
  · exact decMoves_constructDec phase

/-! ### One packet -/

/-- A decoded frame stands in DEC.SCRATCH, and its final range, where it is asked for, in DEC.DIAG. -/
structure FrameStored (s t : State) : Prop where
  codec : t.opusDec.inst = s.opusDec.inst
  pcmOut : t.pcmOut = s.pcmOut
  dec : ∃ nDec buf diag diagV, WrittenBelow (5760 * s.dec.ch.toNat) s.dec.scratch buf ∧
    t.dec = { s.dec with nDec := nDec, scratch := buf, diag := diag, diagV := diagV }

theorem frameStored_decoded {d : Decoding} (fits : d.n ≤ 5760) (rest : List (Answer Decoding)) (s : State) :
    FrameStored s (decoded d rest s) := by
  have short : (d.samples.take (d.n * s.dec.ch.toNat)).length ≤ 5760 * s.dec.ch.toNat :=
    (List.length_take_le ..).trans (Nat.mul_le_mul_right _ fits)
  exact ⟨rfl, rfl, _, _, _, _, .writeBlock _ short, rfl⟩

theorem frameStored_decRanged (v : BitVec 32) (rest : List (BitVec 32)) (s : State) : FrameStored s (decRanged v rest s) :=
  ⟨rfl, rfl, _, _, _, _, .refl _ _, rfl⟩

theorem tailTrim_le {n total endPos keep : Nat} {last : Bool} (trim : tailTrim n total endPos last = some keep) : keep ≤ n := by
  unfold tailTrim at trim
  split_ifs at trim <;> cases trim
  · exact Nat.sub_le ..
  · exact Nat.le_refl _

/-- Raising with a frame stored. -/
theorem decMoves_raised_stored {s t u : State} (stored : FrameStored s t) {code : BitVec 3} (legal : code ≠ 7)
    (same : u.dec.ch = t.dec.ch ∧ u.dec.outLen = t.dec.outLen ∧ u.dec.pktIn = t.dec.pktIn ∧ u.dec.scratch = t.dec.scratch ∧
      u.pcmOut = t.pcmOut) : DecMoves s (decRaised code 0 u) := by
  obtain ⟨nDec, buf, diag, diagV, frame, dec⟩ := stored.dec
  obtain ⟨ch, outLen, pktIn, scratch, pcmOut⟩ := same
  have move := DecMove.raised (d := s.dec) (c := s.opusDec.inst) (out := s.pcmOut) u.dec code 0 legal (by rw [ch, dec])
    (by rw [outLen, dec]) (by rw [pktIn, dec]) (by rwa [scratch, dec])
  have kept : (decRaised code 0 u).pcmOut = s.pcmOut := pcmOut.trans stored.pcmOut
  rw [DecMoves, kept]
  exact move

theorem decMoves_frameEnd {s t : State} (phase : s.dec.phase = 4) (stored : FrameStored s t) : DecMoves s (frameEnd t) := by
  rcases Nat.lt_or_ge (t.dec.pktGran.toNat * t.dec.tRate.toNat) (2 ^ 64) with inDomain | outside
  · rw [frameEnd_of_lt inDomain]
    obtain ⟨total, -, ⟨-, raised⟩ | ⟨keep, trim, kept⟩⟩ :=
      frameOut_cases t.dec.nDec.toNat (t.dec.pktGran.toNat * t.dec.tRate.toNat / 48000) t.dec.pktLast t
    · rw [raised]
      exact decMoves_raised_stored stored (by decide) ⟨rfl, rfl, rfl, rfl, rfl⟩
    · rw [kept, append_eq, DecMoves]
      obtain ⟨nDec, buf, diag, diagV, frame, dec⟩ := stored.dec
      have short : keep - (preSkip keep t.dec.skipRem.toNat).1 < 2 ^ 16 := by
        have within := tailTrim_le trim
        have bound := t.dec.nDec.isLt
        omega
      simp only [stored.codec, stored.pcmOut, dec] at short ⊢
      exact .appended phase nDec _ buf diag diagV total frame _ short _ (length_samplesAt ..)
  · rw [frameEnd_of_le outside]
    exact decMoves_raised_stored stored (by decide) ⟨rfl, rfl, rfl, rfl, rfl⟩

theorem decMoves_decodePacket {s : State} (phase : s.dec.phase = 4) : DecMoves s (decodePacket s) := by
  cases answer : s.opusDec.script.decode with
  | nil => exact decMoves_of_eq (decodePacket_of_unanswered answer)
  | cons a rest =>
    cases a with
    | err reason => exact decodePacket_of_err answer ▸ decMoves_decRaised (by decide) ⟨rfl, rfl, rfl, rfl, rfl⟩
    | ok d =>
      rcases Nat.lt_or_ge 5760 d.n with long | fits
      · exact decodePacket_of_lt answer long ▸ decMoves_decRaised (by decide) ⟨rfl, rfl, rfl, rfl, rfl⟩
      · have stored := frameStored_decoded fits rest s
        rw [decodePacket_of_le answer fits]
        split_ifs
        · exact .decoded phase _ _ (.writeBlock _ ((List.length_take_le ..).trans (Nat.mul_le_mul_right _ fits)))
        · exact decMoves_frameEnd phase stored

theorem decMoves_decodeRange {s : State} (phase : s.dec.phase = 4) : DecMoves s (decodeRange s) := by
  cases answer : s.opusDec.script.range with
  | nil => exact decMoves_of_eq (decodeRange_of_unanswered answer)
  | cons v rest => exact decodeRange_of_value answer ▸ decMoves_frameEnd phase (frameStored_decRanged v rest s)

theorem decMoves_dFrame {s t : State} (phase : s.dec.phase = 4) (ran : exec .dFrame s = .next t) : DecMoves s t := by
  simp only [exec, execDFrame, Host.Outcome.next.injEq] at ran
  subst ran
  split
  · exact decMoves_decodePacket phase
  · exact decMoves_decodeRange phase
  · exact decMoves_readNextPacket (.inr (.inr ⟨phase, rfl⟩)) fun _ => .completed _

/-! ### Every step -/

theorem decMoves_illegalCommand {s t : State} (ran : exec (.illegalCommand .dec) s = .next t) : DecMoves s t := by
  by_cases busy : status .dec s = .busy
  · cases (exec_illegalCommand_of_busy busy).symm.trans ran
    exact .stay
  · cases (exec_illegalCommand_of_free busy).symm.trans ran
    exact decMoves_raise ..

theorem decMoves_decode {s t : State} {rate : BitVec 32} (ran : exec (.decode rate) s = .next t) : DecMoves s t := by
  by_cases busy : status .dec s = .busy
  · cases (exec_decode_of_busy busy).symm.trans ran
    exact .stay
  · cases (exec_decode_of_free busy).symm.trans ran
    exact .accepted rate

theorem decMoves_headPacket {s t : State} {b : List Byte} (read : s.dec.pend = .head)
    (ran : exec (decodeHeadPacket b) s = .next t) : DecMoves s t := by
  obtain ⟨ch, preSkip, rate, gain, family, extra, head⟩ | malformed := decodeHeadPacket_cases b
  · rw [head] at ran
    by_cases channels : ch = 1 ∨ ch = 2
    · cases (exec_opusHead_of_channels channels).symm.trans ran
      exact .headTaken read ch channels preSkip gain
    · cases (exec_opusHead_of_not_channels channels).symm.trans ran
      exact decMoves_decRaised (by decide) ⟨rfl, rfl, rfl, rfl, rfl⟩
  · rw [malformed] at ran
    cases ran
    exact decMoves_raise ..

theorem decMoves_tagsPacket {s t : State} {b : List Byte} (ran : exec (decodeTagsPacket b) s = .next t) : DecMoves s t := by
  obtain ⟨vendorLen, body, tags⟩ | malformed := decodeTagsPacket_cases b
  · rw [tags] at ran
    cases ran
    exact .tagsTaken
  · rw [malformed] at ran
    cases ran
    exact decMoves_raise ..

theorem DecWord.moves {s t : State} {i : Instr} (word : DecWord s i) (ran : exec i s = .next t) : DecMoves s t := by
  cases word with
  | headPacket read packet => exact decMoves_headPacket read (packet ▸ ran)
  | tagsPacket read packet => exact decMoves_tagsPacket (packet ▸ ran)
  | errCode c info _ error =>
    simp only [List.mem_cons, List.not_mem_nil, or_false] at error
    obtain rfl | rfl | rfl | rfl | rfl | rfl | rfl := error
    · cases ran
      exact .errCleared
    · cases ran
      exact decMoves_raise ..
    · cases ran
      exact decMoves_raise ..
    · cases ran
      exact decMoves_raise ..
    · cases ran
      exact decMoves_raise ..
    · cases ran
      exact decMoves_raise ..
    · exact decMoves_illegalCommand ran
  | phase rule =>
    simp only [List.mem_cons, Prod.mk.injEq, List.not_mem_nil, or_false] at rule
    obtain ⟨-, rfl⟩ | ⟨phase, rfl⟩ | ⟨phase, rfl⟩ | ⟨phase, rfl⟩ | ⟨phase, rfl⟩ | ⟨-, rfl⟩ | ⟨-, rfl⟩ := rule
    · cases ran
      exact .stay
    · cases ran
      exact decMoves_readNextPacket (.inl ⟨phase, rfl⟩) fun _ => decMoves_decRaised (by decide) ⟨rfl, rfl, rfl, rfl, rfl⟩
    · exact decMoves_dOpen phase ran
    · cases ran
      exact decMoves_readNextPacket (.inr (.inl ⟨phase, rfl⟩)) fun _ =>
        decMoves_decRaised (by decide) ⟨rfl, rfl, rfl, rfl, rfl⟩
    · exact decMoves_dFrame phase ran
    · cases ran
      exact .completed _
    · cases ran
      exact .stay

/-- Every step is a move of DEC; a step of ENC, or of CONV, lets it stay, and of the host's operations all but RESET. -/
theorem decMoves_of_step {s t : State} (ran : step s = .next t) : DecMoves s t := by
  obtain ⟨sched, inputs, stepped⟩ := stepped_of_step ran
  have stays : ∀ u : State, u.dec = s.dec → u.opusDec.inst = s.opusDec.inst → u.pcmOut = s.pcmOut → DecMoves s u :=
    fun u dec codec out => by
      rw [DecMoves, dec, codec, out]
      exact .stay
  cases stepped with
  | idle same => exact stays t (congrArg (·.dec) same) (congrArg (·.opusDec.inst) same) (congrArg (·.pcmOut) same)
  | hostOp op rest _ _ ran =>
    by_cases isReset : op = .reset
    · subst isReset
      cases ran
      exact .reset
    · have frame := hostOp_frame isReset ran
      exact stays t frame.dec frame.decInst frame.pcmOut
  | encCmd w rest _ _ ran =>
    have part := exec_eq_withPartOf (pipeOf_decodeEncCmd w) ran
    exact stays t (congrArg (·.dec) part) (congrArg (·.opusDec.inst) part) (congrArg (·.pcmOut) part)
  | decCmd w rest _ _ ran =>
    obtain ⟨rate, command⟩ | illegal := decodeDecCmd_cases w
    · rw [command] at ran
      have moves := decMoves_decode ran
      exact moves
    · rw [illegal] at ran
      have moves := decMoves_illegalCommand ran
      exact moves
  | conv out driven =>
    exact stays t (congrArg (·.dec) driven) (congrArg (·.opusDec.inst) driven) (congrArg (·.pcmOut) driven)
  | enc i word ran =>
    have part := exec_eq_withPartOf word.pipeOf ran
    exact stays t (congrArg (·.dec) part) (congrArg (·.opusDec.inst) part) (congrArg (·.pcmOut) part)
  | dec i word ran => exact word.moves ran

/-! ### The output stays whole -/

/-- The output's invariant in terms of DEC and PCM_OUT alone. -/
structure OutputWhole (d : Dec) (out : Memory 16) : Prop where
  extent : ∀ a, (Memory.read out a).isSome = true ↔ a < d.outLen.toNat
  head_empty : d.phase.toNat = 1 ∨ d.pend = .head → d.outLen = 0
  whole : d.outLen.toNat % d.ch.toNat = 0

theorem outputInv_iff (s : State) : OutputInv s ↔ OutputWhole s.dec s.pcmOut :=
  ⟨fun inv => ⟨inv.extent, inv.head_empty, inv.whole⟩, fun inv => ⟨inv.extent, inv.head_empty, inv.whole⟩⟩

/-- An empty output is whole, whatever the number of channels is. -/
theorem outputWhole_nil {d : Dec} (empty : d.outLen = 0) : OutputWhole d [] := by
  refine ⟨fun a => ?_, fun _ => empty, ?_⟩ <;> rw [empty]
  · exact iff_of_false nofun (Nat.not_lt_zero a)
  · exact Nat.zero_mod _

/-- Appending at OUTLEN puts elements exactly from the old OUTLEN up to the new one. -/
theorem isSome_read_append {out : Memory 16} {len : Nat} (extent : ∀ a, (Memory.read out a).isSome = true ↔ a < len)
    (elems : List Sample) (a : Nat) :
    (Memory.read (Memory.writeBlock out len elems) a).isSome = true ↔ a < len + elems.length := by
  rw [Memory.read_writeBlock]
  split_ifs with inBlock
  · have inside : a - len < elems.length := by omega
    rw [List.getElem?_eq_getElem inside]
    exact iff_of_true rfl inBlock.2
  · rw [extent]
    omega

/-- Out of the header phases, with OUTLEN and the channels as they were, the output is as whole as it was. -/
theorem OutputWhole.of_same {d d' : Dec} {out : Memory 16} (whole : OutputWhole d out) (outLen : d'.outLen = d.outLen)
    (ch : d'.ch = d.ch) (later : d'.phase.toNat = 1 ∨ d'.pend = .head → d.phase.toNat = 1 ∨ d.pend = .head) :
    OutputWhole d' out := by
  constructor
  case extent => exact outLen ▸ whole.extent
  case head_empty => exact fun head => outLen ▸ whole.head_empty (later head)
  case whole => exact outLen ▸ ch ▸ whole.whole

theorem DecMove.keeps_output {d d' : Dec} {c c' : Option DecInst} {out out' : Memory 16} (move : DecMove d c out d' c' out')
    (whole : OutputWhole d out) (small : d.outLen.toNat < 2 ^ 63) : OutputWhole d' out' := by
  cases move with
  | stay => exact whole
  | reset => exact outputWhole_nil rfl
  | accepted rate => exact outputWhole_nil rfl
  | raised written code info legal ch outLen pktIn frame =>
    exact whole.of_same outLen ch fun head => absurd head (by simp)
  | errCleared => exact whole.of_same rfl rfl fun head => .inl (head.resolve_right nofun)
  | read next asks bytes len gran last =>
    refine whole.of_same rfl rfl fun head => head.elim .inl fun isHead => ?_
    obtain ⟨phase, -⟩ | ⟨-, rfl⟩ | ⟨-, rfl⟩ := asks
    · exact .inl (congrArg BitVec.toNat phase)
    · cases isHead
    · cases isHead
  | headTaken read ch channels preSkip48 gain =>
    have empty := whole.head_empty (.inr read)
    refine ⟨whole.extent, fun _ => empty, ?_⟩
    simp only [empty]
    exact Nat.zero_mod _
  | constructed phase c' => exact whole.of_same rfl rfl fun head => .inl (head.resolve_right nofun)
  | opened phase skipRem c' => exact whole.of_same rfl rfl fun head => absurd head (by simp)
  | tagsTaken => exact whole.of_same rfl rfl fun head => absurd head (by simp)
  | decoded phase nDec buf frame => exact whole.of_same rfl rfl fun head => .inl (head.resolve_right nofun)
  | appended phase nDec skipRem buf diag diagV total frame frames short elems length =>
    have added : frames * d.ch.toNat ≤ 2 ^ 16 * 2 ^ 8 := Nat.mul_le_mul short.le d.ch.isLt.le
    have newLen : (toU64 (d.outLen.toNat + frames * d.ch.toNat)).toNat = d.outLen.toNat + frames * d.ch.toNat :=
      toU64_toNat _ (by omega)
    refine ⟨fun a => ?extent, fun head => ?head, ?whole⟩
    case extent =>
      have reads := isSome_read_append whole.extent elems a
      rw [length, ← newLen] at reads
      exact reads
    case head => exact absurd (head.resolve_right nofun) (by simp [phase])
    case whole =>
      simp only [newLen, Nat.add_mul_mod_self_right]
      exact whole.whole
  | completed outCh => exact whole.of_same rfl rfl fun head => absurd head (by simp)

/-- Settles O60: every step is a move of DEC, and every move keeps the output whole. -/
theorem everyStepKeepsTheOutputWhole : Obligations.EveryStepKeepsTheOutputWhole := by
  intro s t inv small ran
  rw [outputInv_iff] at inv ⊢
  exact (decMoves_of_step ran).keeps_output inv small

end Sys2Proof.Proofs
end

section
/-! PROOF. The data stays sound in every step (10_state.md R18, R19; 30_encoding.md R64, R74; 60_exceptions.md R200): along the
moves of ENC and of DEC, and PCM_IN along the host's operations. The reset state is sound. -/

namespace Sys2Proof.Proofs

open Sys2Proof.Machine

/-! ### Sound data, pipeline by pipeline -/

/-- A space in canonical form and within its capacity. -/
def SoundBelow {w : Nat} (cap : Nat) (m : Memory w) : Prop := Memory.wf m = true ∧ ∀ e ∈ m, e.1 < cap

theorem SoundBelow.written {w cap cap' : Nat} {m m' : Memory w} (sound : SoundBelow cap m) (written : WrittenBelow cap' m m')
    (within : cap' ≤ cap) : SoundBelow cap m' := by
  obtain ⟨wf, elements⟩ := written sound.1
  exact ⟨wf, fun e mem => (elements e mem).elim (sound.2 e) fun below => Nat.lt_of_lt_of_le below within⟩

theorem soundBelow_nil {w : Nat} (cap : Nat) : SoundBelow cap ([] : Memory w) := ⟨rfl, nofun⟩

/-- ENC's part of the invariant. -/
structure EncSound (e : Enc) (c : Option EncInst) : Prop where
  frameBuf : SoundBelow 1920 e.frameBuf
  pktBuf : SoundBelow 4000 e.pktBuf
  phase_legal : e.phase.toNat ≤ 10 ∨ e.phase.toNat = 15
  err_legal : e.err ≠ 7
  pend_legal : e.pend.Legal
  cmdCh_le : e.cmdCh.toNat ≤ 2
  ch_le : e.ch.toNat ≤ 2
  resting : statusWithDone 10 e.phase ≠ .busy → c = none ∧ e.pend = .start

/-- DEC's part of the invariant, with PCM_OUT. -/
structure DecSound (d : Dec) (c : Option DecInst) (out : Memory 16) : Prop where
  pktIn_wf : Memory.wf d.pktIn = true
  scratch : SoundBelow 11520 d.scratch
  pcmOut_wf : Memory.wf out = true
  phase_legal : d.phase.toNat ≤ 5 ∨ d.phase.toNat = 15
  err_legal : d.err ≠ 7
  pend_legal : d.pend.Legal
  ch_le : d.ch.toNat ≤ 2
  resting : statusWithDone 5 d.phase ≠ .busy → c = none ∧ d.pend = .start

theorem inv_iff (s : State) : Inv s ↔
    EncSound s.enc s.opusEnc.inst ∧ DecSound s.dec s.opusDec.inst s.pcmOut ∧ Memory.wf s.pcmIn = true := by
  constructor
  · intro inv
    refine ⟨?_, ?_, inv.pcmIn_wf⟩
    · exact ⟨⟨inv.frameBuf_wf, inv.frameBuf_cap⟩, ⟨inv.pktBuf_wf, inv.pktBuf_cap⟩, inv.encPhase_legal, inv.encErr_legal,
        inv.encPend_legal, inv.cmdCh_le, inv.encCh_le, fun free => ⟨inv.encInst_released free, inv.encRest free⟩⟩
    · exact ⟨inv.pktIn_wf, ⟨inv.scratch_wf, inv.scratch_cap⟩, inv.pcmOut_wf, inv.decPhase_legal, inv.decErr_legal,
        inv.decPend_legal, inv.decCh_le, fun free => ⟨inv.decInst_released free, inv.decRest free⟩⟩
  · rintro ⟨enc, dec, pcmIn_wf⟩
    exact {
      pcmIn_wf, pcmOut_wf := dec.pcmOut_wf
      frameBuf_wf := enc.frameBuf.1, pktBuf_wf := enc.pktBuf.1, pktIn_wf := dec.pktIn_wf, scratch_wf := dec.scratch.1
      frameBuf_cap := enc.frameBuf.2, pktBuf_cap := enc.pktBuf.2, scratch_cap := dec.scratch.2
      encPhase_legal := enc.phase_legal, decPhase_legal := dec.phase_legal
      encErr_legal := enc.err_legal, decErr_legal := dec.err_legal
      encPend_legal := enc.pend_legal, decPend_legal := dec.pend_legal
      cmdCh_le := enc.cmdCh_le, encCh_le := enc.ch_le, decCh_le := dec.ch_le
      encInst_released := fun free => (enc.resting free).1, decInst_released := fun free => (dec.resting free).1
      encRest := fun free => (enc.resting free).2, decRest := fun free => (dec.resting free).2 }

/-- A pipeline in a phase of an invocation owes nothing of what a resting one does. -/
theorem resting_of_busy {done phase p : BitVec 4} {P : Prop} (isPhase : phase = p) (busy : statusWithDone done p = .busy) :
    statusWithDone done phase ≠ .busy → P := fun free => absurd (isPhase ▸ busy) free

/-! ### ENC -/

theorem encSound_reset : EncSound Enc.reset none :=
  ⟨soundBelow_nil _, soundBelow_nil _, by decide, by decide, trivial, by decide, by decide, fun _ => ⟨rfl, rfl⟩⟩

/-- A packet of a frame under way fits ENC.PKTBUF. -/
theorem ReadyToPost.le {e : Enc} {len slots : Nat} (ready : ReadyToPost e len slots) (legal : e.pend.Legal) : len ≤ 4000 := by
  obtain ⟨-, fits⟩ | range := ready
  · exact fits
  · rw [range] at legal
    exact legal

/-- Entering a phase of the invocation, with whatever codec. -/
theorem EncSound.entered {e : Enc} {c : Option EncInst} (sound : EncSound e c) (c' : Option EncInst) (p : BitVec 4)
    (legal : p.toNat ≤ 10) (busy : statusWithDone 10 p = .busy) : EncSound { e with phase := p, pend := .start } c' :=
  { sound with phase_legal := .inl legal, pend_legal := trivial, resting := resting_of_busy rfl busy }

theorem EncMove.keeps_sound {e e' : Enc} {c c' : Option EncInst} (move : EncMove e c e' c') (sound : EncSound e c) :
    EncSound e' c' := by
  cases move with
  | stay => exact sound
  | hostWrote n raced _ => exact { sound with }
  | reset => exact encSound_reset
  | accepted ch rate legal => exact { sound.entered c 1 (by decide) rfl with err_legal := by simp, cmdCh_le := legal }
  | raised written code info legal cmdCh ch frame packet =>
    exact { frameBuf := sound.frameBuf.written frame le_rfl, pktBuf := sound.pktBuf.written packet le_rfl
            phase_legal := .inr rfl, err_legal := legal, pend_legal := trivial
            cmdCh_le := cmdCh ▸ sound.cmdCh_le, ch_le := ch ▸ sound.ch_le, resting := fun _ => ⟨rfl, rfl⟩ }
  | errCleared =>
    exact { sound with err_legal := by simp, pend_legal := trivial, resting := fun free => ⟨(sound.resting free).1, rfl⟩ }
  | validated _ _ =>
    have channels : (if e.cmdCh = 0 then 1 else e.cmdCh).toNat ≤ 2 := by
      split_ifs
      · decide
      · exact sound.cmdCh_le
    exact { sound.entered c 2 (by decide) rfl with ch_le := channels }
  | constructed phase c' => exact { sound with pend_legal := trivial, resting := resting_of_busy phase rfl }
  | opened _ c' => exact sound.entered c' 3 (by decide) rfl
  | looked _ skip skip48 slots _ => exact { sound.entered c 4 (by decide) rfl with }
  | drew _ serial => exact { sound.entered c 5 (by decide) rfl with }
  | headerPosted phase buf len packet fits =>
    exact { sound with pktBuf := sound.pktBuf.written packet le_rfl, pend_legal := ⟨fits, by decide⟩
                       resting := phase.elim (resting_of_busy · rfl) (resting_of_busy · rfl) }
  | mainStarted phase fs fsz max _ _ _ => exact { sound with pend_legal := trivial, resting := resting_of_busy phase rfl }
  | mainFilled phase _ _ buf frame =>
    exact { sound with frameBuf := sound.frameBuf.written frame le_rfl, pend_legal := trivial
                       resting := resting_of_busy phase rfl }
  | mainEnded _ _ => exact { sound.entered c 8 (by decide) rfl with }
  | tailFilled phase d _ _ buf frame =>
    exact { sound with frameBuf := sound.frameBuf.written frame le_rfl, pend_legal := trivial
                       resting := resting_of_busy phase rfl }
  | tailEnded _ _ => exact sound.entered c 9 (by decide) rfl
  | finalFilled phase slots buf frame =>
    exact { sound with frameBuf := sound.frameBuf.written frame le_rfl, pend_legal := trivial
                       resting := resting_of_busy phase rfl }
  | encoded phase len slots _ fits buf packet =>
    refine { sound with pktBuf := sound.pktBuf.written packet le_rfl, pend_legal := fits, resting := ?_ }
    obtain main | tail | final := phase
    · exact resting_of_busy main rfl
    · exact resting_of_busy tail rfl
    · exact resting_of_busy final rfl
  | posted phase len slots ready buf packet diag diagV m marker g =>
    exact { sound with pktBuf := sound.pktBuf.written packet le_rfl, pend_legal := ⟨ready.le sound.pend_legal, marker⟩
                       resting := phase.elim (resting_of_busy · rfl) (resting_of_busy · rfl) }
  | tailPosted phase len slots ready buf packet diag diagV m marker g =>
    exact { sound with pktBuf := sound.pktBuf.written packet le_rfl, pend_legal := ⟨ready.le sound.pend_legal, marker⟩
                       resting := resting_of_busy phase rfl }
  | headerWritten eos next phase =>
    obtain ⟨-, rfl⟩ | ⟨-, rfl⟩ := phase
    · exact { sound.entered c 6 (by decide) rfl with }
    · exact { sound.entered c 7 (by decide) rfl with }
  | mainWritten phase _ _ _ _ eos => exact { sound with pend_legal := trivial, resting := resting_of_busy phase rfl }
  | written eos =>
    exact { sound with pend_legal := trivial, resting := fun free => ⟨(sound.resting free).1, rfl⟩ }
  | completed eos pos =>
    exact { sound with phase_legal := .inl (by simp), pend_legal := trivial, resting := fun _ => ⟨rfl, rfl⟩ }

/-! ### DEC -/

theorem decSound_reset : DecSound Dec.reset none [] :=
  ⟨rfl, soundBelow_nil _, rfl, by decide, by decide, trivial, by decide, fun _ => ⟨rfl, rfl⟩⟩

/-- Entering a phase of the invocation, with whatever codec. -/
theorem DecSound.entered {d : Dec} {c : Option DecInst} {out : Memory 16} (sound : DecSound d c out) (c' : Option DecInst)
    (p : BitVec 4) (legal : p.toNat ≤ 5) (busy : statusWithDone 5 p = .busy) :
    DecSound { d with phase := p, pend := .start } c' out :=
  { sound with phase_legal := .inl legal, pend_legal := trivial, resting := resting_of_busy rfl busy }

theorem DecMove.keeps_sound {d d' : Dec} {c c' : Option DecInst} {out out' : Memory 16} (move : DecMove d c out d' c' out')
    (sound : DecSound d c out) : DecSound d' c' out' := by
  have capacity : 5760 * d.ch.toNat ≤ 11520 := Nat.mul_le_mul_left 5760 sound.ch_le
  cases move with
  | stay => exact sound
  | reset => exact decSound_reset
  | accepted rate => exact { sound.entered c 1 (by decide) rfl with pcmOut_wf := rfl, err_legal := by simp }
  | raised written code info legal ch _ pktIn frame =>
    exact { pktIn_wf := by simpa [pktIn] using sound.pktIn_wf, scratch := sound.scratch.written frame capacity
            pcmOut_wf := sound.pcmOut_wf, phase_legal := .inr rfl, err_legal := legal, pend_legal := trivial
            ch_le := ch ▸ sound.ch_le, resting := fun _ => ⟨rfl, rfl⟩ }
  | errCleared =>
    exact { sound with err_legal := by simp, pend_legal := trivial, resting := fun free => ⟨(sound.resting free).1, rfl⟩ }
  | read next asks bytes len gran last =>
    have block : Memory.wf (Memory.writeBlock [] 0 bytes) = true := Memory.wf_writeBlock [] 0 bytes rfl
    obtain ⟨phase, rfl⟩ | ⟨phase, rfl⟩ | ⟨phase, rfl⟩ := asks
    · exact { sound with pktIn_wf := block, pend_legal := trivial, resting := resting_of_busy phase rfl }
    · exact { sound with pktIn_wf := block, pend_legal := trivial, resting := resting_of_busy phase rfl }
    · exact { sound with pktIn_wf := block, pend_legal := trivial, resting := resting_of_busy phase rfl }
  | headTaken _ ch channels preSkip48 gain =>
    have within : ch.toNat ≤ 2 := by
      obtain rfl | rfl := channels
      · decide
      · decide
    exact { sound.entered c 2 (by decide) rfl with ch_le := within }
  | constructed phase c' => exact { sound with pend_legal := trivial, resting := resting_of_busy phase rfl }
  | opened _ skipRem c' => exact { sound.entered c' 3 (by decide) rfl with }
  | tagsTaken => exact sound.entered c 4 (by decide) rfl
  | decoded phase nDec buf frame =>
    exact { sound with scratch := sound.scratch.written frame capacity, pend_legal := trivial
                       resting := resting_of_busy phase rfl }
  | appended phase nDec skipRem buf diag diagV total frame _ _ elems _ =>
    exact { sound with scratch := sound.scratch.written frame capacity
                       pcmOut_wf := Memory.wf_writeBlock out _ elems sound.pcmOut_wf, pend_legal := trivial
                       resting := resting_of_busy phase rfl }
  | completed outCh =>
    exact { sound with phase_legal := .inl (by simp), pend_legal := trivial, resting := fun _ => ⟨rfl, rfl⟩ }

/-! ### Every step, and reset -/

/-- PCM_IN is written by LOAD PCM_IN only, which keeps it in canonical form. -/
theorem pcmIn_wf_of_step {s t : State} (wf : Memory.wf s.pcmIn = true) (ran : step s = .next t) :
    Memory.wf t.pcmIn = true := by
  obtain ⟨sched, inputs, stepped⟩ := stepped_of_step ran
  have keeps : t.pcmIn = s.pcmIn → Memory.wf t.pcmIn = true := fun same => same ▸ wf
  cases stepped with
  | idle same => exact keeps (congrArg (·.pcmIn) same)
  | hostOp op rest _ _ ran =>
    by_cases isReset : op = .reset
    · subst isReset
      cases ran
      exact wf
    · exact (hostOp_frame isReset ran).pcmIn wf
  | encCmd w rest _ _ ran => exact keeps (congrArg (·.pcmIn) (exec_eq_withPartOf (pipeOf_decodeEncCmd w) ran))
  | decCmd w rest _ _ ran => exact keeps (congrArg (·.pcmIn) (exec_eq_withPartOf (pipeOf_decodeDecCmd w) ran))
  | conv out driven => exact keeps (congrArg (·.pcmIn) driven)
  | enc i word ran => exact keeps (congrArg (·.pcmIn) (exec_eq_withPartOf word.pipeOf ran))
  | dec i word ran => exact keeps (congrArg (·.pcmIn) (exec_eq_withPartOf word.pipeOf ran))

/-- Settles O57: every step is a move of ENC and a move of DEC, and each move keeps its pipeline's data sound. -/
theorem everyStepKeepsTheDataSound : Obligations.EveryStepKeepsTheDataSound := by
  intro s t inv ran
  rw [inv_iff] at inv ⊢
  obtain ⟨enc, dec, pcmIn⟩ := inv
  exact ⟨(encMoves_of_step ran).keeps_sound enc, (decMoves_of_step ran).keeps_sound dec, pcmIn_wf_of_step pcmIn ran⟩

/-- Settles O58: both pipelines rest, every space is empty and every counter is 0. -/
theorem resetStateIsSound : Obligations.ResetStateIsSound := by
  refine ⟨(inv_iff _).mpr ⟨encSound_reset, decSound_reset, rfl⟩, ?_, (outputInv_iff _).mpr (outputWhole_nil rfl)⟩
  exact timelineInv_of_noAudio 0 (setUp_of_rest 0 (by decide) rfl (by decide)) rfl (by decide)

end Sys2Proof.Proofs
end
